-- ==== Sys2Proof/Word.lean ====
section
/-! DEFINITION. The word types of the block. Every value is an unsigned integer of a stated width (00_scope.md R9, R10). -/

namespace Sys2Proof

/-- A byte of IN or OUT: 8 bits, bit 0 least significant (00_scope.md R9). -/
abbrev Byte := BitVec 8

/-- A 32-bit word: a host register, `target_len`, `out_len`, `err_info` (10_state.md R23, R26, R30, R33). -/
abbrev Word := BitVec 32

end Sys2Proof
end

