-- ==== Sys2Proof/Config.lean ====
section
/-! DEFINITION. What an implementation fixes (00_scope.md R6, R7) and the free values (93_implementation_defined.md). -/

namespace Sys2Proof

/-- The format tag that selects LZSS10 (00_scope.md R6: TAG_LZSS10). -/
abbrev tagLzss10 : Byte := 0x10

/-- The format tag that selects LZSS11 (00_scope.md R6: TAG_LZSS11). -/
abbrev tagLzss11 : Byte := 0x11

/-- The named parameters of 00_scope.md R7 and 20_memory.md R60, with the spec's defaults.
BIAS3 and BIAS4 have 17 bits, the width of `copy_rem`, and must lie in 0..0x10000 (44_lzss11_tokens.md R184).
REG_BASE has no default in the spec: 0 is a DESIGN CHOICE (log entry 6). -/
structure Config where
  /-- BIAS3: added to L in the 3-byte LZSS11 tier. -/
  bias3 : BitVec 17 := 0x11
  /-- BIAS4: added to L in the 4-byte LZSS11 tier. -/
  bias4 : BitVec 17 := 0x111
  /-- OUT_CAPACITY: OUT has the positions 0 .. OUT_CAPACITY-1. -/
  outCapacity : Nat := 4294967296
  /-- REG_BASE: the platform's base address of the register window. -/
  regBase : Nat := 0
deriving DecidableEq, Repr

/-- The spec's default parameters (00_scope.md R7). -/
def Config.default : Config := {}

/-- The bounds the spec puts on the parameters: the biases of 44_lzss11_tokens.md R184, and an OUT whose positions
have 32 bits (20_memory.md R50). REG_BASE is word aligned (DEDUCED from the aligned accesses of R37, log entry 6). -/
def Config.wf (c : Config) : Bool :=
  decide (c.bias3.toNat ≤ 0x10000) && decide (c.bias4.toNat ≤ 0x10000)
    && decide (c.outCapacity ≤ 4294967296) && decide (c.regBase % 4 = 0)

/-- A draw: a byte the spec leaves open ("any value", 93_implementation_defined.md I4, I5, I6). It has no body, so that
no proof can see a value of it; the machine applies it to its draw counter (log entry 3). -/
opaque Config.freeByte : Nat → BitVec 8

end Sys2Proof
end

