-- ==== Sys2Proof/Syntax.lean ====
section
/-! DEFINITION. The elements of the stream, the copy step and the host command: one constructor for each row of
spec/opcode_table.json (00_scope.md R12, 30_encoding.md R72 to R80). -/

namespace Sys2Proof

/-- The two stream formats (00_scope.md R2): `variant` 0 is LZSS10 and 1 is LZSS11 (10_state.md R21). -/
inductive Variant where
  | lzss10
  | lzss11
deriving DecidableEq, Repr

/-- The bit that holds the variant (10_state.md R21). -/
def Variant.bit : Variant → Bool
  | .lzss10 => false
  | .lzss11 => true

/-- One constructor for each row of the opcode table, with its operand fields as the encoding gives them. -/
inductive Instr where
  /-- HDR10: LZSS10 header, 24-bit length (R101). -/
  | hdr10 (len24 : BitVec 24)
  /-- HDR11: LZSS11 header, 24-bit length (R102). -/
  | hdr11 (len24 : BitVec 24)
  /-- HDR10X: LZSS10 header, 32-bit length (R103). -/
  | hdr10x (len32 : BitVec 32)
  /-- HDR11X: LZSS11 header, 32-bit length (R104). -/
  | hdr11x (len32 : BitVec 32)
  /-- FLAG: the flag byte (R121). -/
  | flag (f : BitVec 8)
  /-- LIT: the literal (R123). -/
  | lit (v : BitVec 8)
  /-- REF10: the LZSS10 token (R160). -/
  | ref10 (l : BitVec 4) (d : BitVec 12)
  /-- REF11S: the LZSS11 2-byte token (R181). -/
  | ref11s (l : BitVec 4) (d : BitVec 12)
  /-- REF11M: the LZSS11 3-byte token (R182). -/
  | ref11m (l : BitVec 8) (d : BitVec 12)
  /-- REF11L: the LZSS11 4-byte token (R183). -/
  | ref11l (l : BitVec 16) (d : BitVec 12)
  /-- COPY: one step of the copy engine; no stream element (R140). -/
  | copy
  /-- START: the host command, a write of 1 to CTRL bit 0 (R120). Its argument, the stream, stands at the input port. -/
  | start
deriving DecidableEq, Repr

/-- The width of each element in bytes (30_encoding.md R85; COPY reads nothing, and START is a 32-bit register write). -/
def Instr.width : Instr → Nat
  | .hdr10 _ => 4
  | .hdr11 _ => 4
  | .hdr10x _ => 8
  | .hdr11x _ => 8
  | .flag _ => 1
  | .lit _ => 1
  | .ref10 _ _ => 2
  | .ref11s _ _ => 2
  | .ref11m _ _ => 3
  | .ref11l _ _ => 4
  | .copy => 0
  | .start => 4

end Sys2Proof
end

