-- ==== Sys2Proof/WellFormed.lean ====
section
/-! DEFINITION. Which terms of Instr the encoding can express. -/

namespace Sys2Proof

/-- A short header holds a non-zero `len24` (30_encoding.md R72, R101, R102: 0 selects the extended form), and the
length field of REF11S is neither 0 nor 1, which select the other tiers (30_encoding.md R78). Every other field value is
legal (30_encoding.md R83, R84). -/
def Instr.wellFormed : Instr → Bool
  | .hdr10 len24 => decide (len24 ≠ 0)
  | .hdr11 len24 => decide (len24 ≠ 0)
  | .hdr10x _ => true
  | .hdr11x _ => true
  | .flag _ => true
  | .lit _ => true
  | .ref10 _ _ => true
  | .ref11s l _ => decide (2 ≤ l.toNat)
  | .ref11m _ _ => true
  | .ref11l _ _ => true
  | .copy => true
  | .start => true

end Sys2Proof
end

