-- ==== Sys2Proof/Decode.lean ====
section
/-! DEFINITION. The decoder, total on any bytes in every context, then the encoder. The engine's state, not the bytes
alone, selects the element (30_encoding.md R70), so the decoder takes that selection as its context. -/

namespace Sys2Proof

/-- What the next bytes are read as: the selector column of 30_encoding.md R70, the copy step, which reads no byte
(42_copy_engine.md R140), and a 32-bit write to CTRL (10_state.md R34). -/
inductive Context where
  | header
  | flagByte
  | literal
  | token10
  | token11
  | copyStep
  | ctrlWrite
deriving DecidableEq, Repr

/-- What the decoder answers: an instruction with the bytes after it, or a rejection by name. -/
inductive Decoded where
  | ok (i : Instr) (rest : List Byte)
  /-- The bytes end inside the element: the `InRead()` that finds no byte raises UnexpectedEof (20_memory.md R51). -/
  | truncated
  /-- The tag is neither 0x10 nor 0x11 (30_encoding.md R83). -/
  | invalidTag (tag : Byte)
  /-- A CTRL word whose bit 0 is 0 is no command (10_state.md R34). -/
  | noCommand
deriving DecidableEq, Repr

/-- `b[7:4]`. -/
def highNibble (b : Byte) : BitVec 4 := b.extractLsb' 4 4

/-- `b[3:0]`. -/
def lowNibble (b : Byte) : BitVec 4 := b.extractLsb' 0 4

/-- A 24-bit little-endian field, first byte least significant (20_memory.md R54). -/
def le24 (b1 b2 b3 : Byte) : BitVec 24 := b3 ++ b2 ++ b1

/-- A 32-bit little-endian field (20_memory.md R54, R56). -/
def le32 (c0 c1 c2 c3 : Byte) : BitVec 32 := c3 ++ c2 ++ c1 ++ c0

/-- Byte `k` of a number, byte 0 the least significant. -/
def byteOf {w : Nat} (v : BitVec w) (k : Nat) : Byte := v.extractLsb' (8 * k) 8

/-- The short header of a variant (30_encoding.md R72). -/
def shortHeader : Variant → BitVec 24 → Instr
  | .lzss10, n => .hdr10 n
  | .lzss11, n => .hdr11 n

/-- The extended header of a variant (30_encoding.md R73). -/
def extendedHeader : Variant → BitVec 32 → Instr
  | .lzss10, n => .hdr10x n
  | .lzss11, n => .hdr11x n

/-- The four extended length bytes (30_encoding.md R73). -/
def decodeLen32 (v : Variant) : List Byte → Decoded
  | c0 :: c1 :: c2 :: c3 :: rest => .ok (extendedHeader v (le32 c0 c1 c2 c3)) rest
  | _ => .truncated

/-- The length bytes after the tag: three, then four more exactly when the three are zero (30_encoding.md R72, R73). -/
def decodeLength (v : Variant) : List Byte → Decoded
  | b1 :: b2 :: b3 :: rest =>
    if le24 b1 b2 b3 = 0 then decodeLen32 v rest else .ok (shortHeader v (le24 b1 b2 b3)) rest
  | _ => .truncated

/-- The header: the tag is tested before any length byte is read (40_header.md R105). -/
def decodeHeader : List Byte → Decoded
  | [] => .truncated
  | tag :: rest =>
    if tag = tagLzss10 then decodeLength .lzss10 rest
    else if tag = tagLzss11 then decodeLength .lzss11 rest
    else .invalidTag tag

/-- The flag byte (30_encoding.md R74). -/
def decodeFlag : List Byte → Decoded
  | f :: rest => .ok (.flag f) rest
  | [] => .truncated

/-- The literal (30_encoding.md R75). -/
def decodeLit : List Byte → Decoded
  | v :: rest => .ok (.lit v) rest
  | [] => .truncated

/-- The LZSS10 token (30_encoding.md R76). -/
def decodeToken10 : List Byte → Decoded
  | b0 :: b1 :: rest => .ok (.ref10 (highNibble b0) (lowNibble b0 ++ b1)) rest
  | _ => .truncated

/-- The 3-byte tier after its first byte (30_encoding.md R79). -/
def decodeTierM (b0 : Byte) : List Byte → Decoded
  | b1 :: b2 :: rest => .ok (.ref11m (lowNibble b0 ++ highNibble b1) (lowNibble b1 ++ b2)) rest
  | _ => .truncated

/-- The 4-byte tier after its first byte (30_encoding.md R80: L is b0[3:0] : b1 : b2[7:4], log entry 9). -/
def decodeTierL (b0 : Byte) : List Byte → Decoded
  | b1 :: b2 :: b3 :: rest =>
    .ok (.ref11l (lowNibble b0 ++ b1 ++ highNibble b2) (lowNibble b2 ++ b3)) rest
  | _ => .truncated

/-- The 2-byte tier after its first byte (30_encoding.md R78). -/
def decodeTierS (b0 : Byte) : List Byte → Decoded
  | b1 :: rest => .ok (.ref11s (highNibble b0) (lowNibble b0 ++ b1)) rest
  | _ => .truncated

/-- The LZSS11 token: the high nibble of its first byte selects the tier (30_encoding.md R77). -/
def decodeToken11 : List Byte → Decoded
  | [] => .truncated
  | b0 :: rest =>
    if highNibble b0 = 0 then decodeTierM b0 rest
    else if highNibble b0 = 1 then decodeTierL b0 rest
    else decodeTierS b0 rest

/-- A CTRL word, its bytes little-endian (20_memory.md R56): bit 0 is START and bits 31:1 are ignored (10_state.md R34). -/
def decodeCtrl : List Byte → Decoded
  | w0 :: _ :: _ :: _ :: rest => if w0.getLsbD 0 then .ok .start rest else .noCommand
  | _ => .truncated

/-- The decoder: total on any bytes, rejecting by name. -/
def decode : Context → List Byte → Decoded
  | .header, bs => decodeHeader bs
  | .flagByte, bs => decodeFlag bs
  | .literal, bs => decodeLit bs
  | .token10, bs => decodeToken10 bs
  | .token11, bs => decodeToken11 bs
  | .copyStep, bs => .ok .copy bs
  | .ctrlWrite, bs => decodeCtrl bs

/-- The context an instruction belongs to: the "context" column of spec/opcode_table.json (30_encoding.md R70). -/
def Instr.context : Instr → Context
  | .hdr10 _ => .header
  | .hdr11 _ => .header
  | .hdr10x _ => .header
  | .hdr11x _ => .header
  | .flag _ => .flagByte
  | .lit _ => .literal
  | .ref10 _ _ => .token10
  | .ref11s _ _ => .token11
  | .ref11m _ _ => .token11
  | .ref11l _ _ => .token11
  | .copy => .copyStep
  | .start => .ctrlWrite

/-- The encoder, written from the patterns of 30_encoding.md R72 to R80: bytes in stream order. START is the CTRL word
0x00000001 as little-endian bytes (10_state.md R34, 20_memory.md R56). COPY has no encoding. -/
def encode : Instr → List Byte
  | .hdr10 n => [tagLzss10, byteOf n 0, byteOf n 1, byteOf n 2]
  | .hdr11 n => [tagLzss11, byteOf n 0, byteOf n 1, byteOf n 2]
  | .hdr10x n => [tagLzss10, 0, 0, 0, byteOf n 0, byteOf n 1, byteOf n 2, byteOf n 3]
  | .hdr11x n => [tagLzss11, 0, 0, 0, byteOf n 0, byteOf n 1, byteOf n 2, byteOf n 3]
  | .flag f => [f]
  | .lit v => [v]
  | .ref10 l d => [l ++ d.extractLsb' 8 4, byteOf d 0]
  | .ref11s l d => [l ++ d.extractLsb' 8 4, byteOf d 0]
  | .ref11m l d => [(0 : BitVec 4) ++ l.extractLsb' 4 4, l.extractLsb' 0 4 ++ d.extractLsb' 8 4, byteOf d 0]
  | .ref11l l d =>
    [(1 : BitVec 4) ++ l.extractLsb' 12 4, l.extractLsb' 4 8, l.extractLsb' 0 4 ++ d.extractLsb' 8 4, byteOf d 0]
  | .copy => []
  | .start => [1, 0, 0, 0]

/-- The bytes of a row's number, first stream byte in the highest bits (30_encoding.md, layout convention). -/
def tableBytes : Nat → Nat → List Byte
  | 0, _ => []
  | k + 1, w => BitVec.ofNat 8 (w / 256 ^ k) :: tableBytes k w

/-- The context that a bare number of the opcode table is read in. The table's rows overlap (the state selects among them,
R70), so a context is chosen from the number of bits and, where that leaves two, from the bits (log entry 11). -/
def tableContext (nbits w : Nat) : Option Context :=
  match nbits with
  | 0 => some .copyStep
  | 8 => some .flagByte
  | 16 => some (if 2 ≤ w / 4096 % 16 then .token11 else .token10)
  | 24 => some .token11
  | 32 =>
    if (w / 16777216 = 16 ∨ w / 16777216 = 17) ∧ w % 16777216 ≠ 0 then some .header
    else if w / 268435456 = 1 then some .token11
    else some .ctrlWrite
  | 64 => some .header
  | _ => none

/-- The bytes that a number of the table stands for, with zeros after them up to the longest element. A CTRL word is a
register value, presented little-endian (20_memory.md R56); every other row is in stream order. -/
def tableStream (c : Context) (nbits w : Nat) : List Byte :=
  match c with
  | .ctrlWrite => (tableBytes (nbits / 8) w).reverse
  | _ => tableBytes (nbits / 8) w ++ List.replicate (8 - nbits / 8) 0

/-- The instruction the decoder reads from a number of spec/opcode_table.json, numbered as the table numbers it: one
number of nbits bits, the first stream byte in its highest bits (log entry 11). None where the decoder refuses, or where
the bits given are more than the instruction has. -/
def decodeTableWord (nbits w : Nat) : Option Instr :=
  match tableContext nbits w with
  | none => none
  | some c =>
    match decode c (tableStream c nbits w) with
    | .ok i _ => if nbits ≤ 8 * i.width then some i else none
    | .truncated => none
    | .invalidTag _ => none
    | .noCommand => none

end Sys2Proof
end

