-- ==== Sys2Proof/Machine/State.lean ====
section
/-! DEFINITION. The state of the block, plain data: the engine registers of 10_state.md R20 to R31, the bound input and
OUT (20_memory.md R50), and what the model adds for the host agent. The faults, the refusals and the state after reset. -/

namespace Sys2Proof.Machine

/-- `phase` (10_state.md R20). The cursor n of BIT(n) and COPY(n) is the bit cursor (R25). -/
inductive Phase where
  | idle
  | header
  | needFlag
  | bit (n : Fin 8)
  | copy (n : Fin 8)
  | done
  | error
deriving DecidableEq, Repr

/-- `err` (10_state.md R30): four names for its four 2-bit values. -/
inductive ErrKind where
  | none
  | invalidHeader
  | unexpectedEof
  | invalidBackReference
deriving DecidableEq, Repr

/-- The seven host registers (10_state.md R33). They are views of the engine state and store nothing of their own. -/
inductive Reg where
  | ctrl
  | status
  | targetLen
  | outLen
  | inPosLo
  | inPosHi
  | errInfo
deriving DecidableEq, Repr

/-- What the outside world does next. The list of these in State says which of the two agents moves (log entry 1). -/
inductive HostEvent where
  /-- The engine takes its next step. -/
  | engine
  /-- The host presents a stream at the input port (70_reset_and_hazards.md R232 step 2). -/
  | present (bytes : List Byte)
  /-- The host reads the register window: an absolute address and a size in bytes (10_state.md R33, R37). -/
  | regRead (addr size : Nat)
  /-- The host writes the register window. -/
  | regWrite (addr size : Nat) (value : Word)
  /-- The host reads one position of OUT (20_memory.md R63). -/
  | outRead (pos : BitVec 32)
  /-- The host writes one position of OUT (20_memory.md R63 (c)). -/
  | outWrite (pos : BitVec 32) (value : Byte)
  /-- The reset event (70_reset_and_hazards.md R230). -/
  | reset
deriving DecidableEq, Repr

/-- What the host's last read returned. -/
inductive Reply where
  | word (value : Word)
  | byte (value : Byte)
deriving DecidableEq, Repr

/-- OUT: address and byte pairs, addresses strictly rising. An unlisted position holds no value of its own: a read of it is
a draw (10_state.md R40, 93_implementation_defined.md I6; log entry 4). -/
abbrev Memory := List Host.Cell

/-- Why the machine stops with a fault. The three errors of 60_exceptions.md R200 are NOT here: taking one is a next state. -/
inductive Fault where
  /-- An access to OUT at or above OUT_CAPACITY, a position that does not exist (20_memory.md R52). Raised by OutAppend and
  by a host access to OUT. Safe: the model stops where the spec gives no position. The engine never raises it from a state
  that meets the invariant. -/
  | outPositionAbsent
deriving DecidableEq, Repr

/-- Why the model gives a step no meaning. -/
inductive Refusal where
  /-- exec's arm of an instruction that has no meaning yet. Safe. No arm uses it. -/
  | notModelled (mnemonic : String)
  /-- A header whose `target_len` exceeds OUT_CAPACITY (40_header.md R108). Raised by the four headers. Safe. -/
  | outCapacityExceeded
  /-- A register access that is unmapped, misaligned or not 32 bits wide (10_state.md R37). Raised by a host access. Safe. -/
  | registerUnmapped
  /-- The host wrote OUT while BUSY (70_reset_and_hazards.md R235). Raised by a host access. Safe. -/
  | hostWroteOutWhileBusy
  /-- The host changed or withdrew the bound input while BUSY (70_reset_and_hazards.md R235). Raised by a host event. Safe. -/
  | hostChangedInputWhileBusy
  /-- exec was asked for an element in a state that does not select it (30_encoding.md R70). Raised by the meanings; step
  never raises it, since it decodes in the context the state selects. Safe. -/
  | notSelected
deriving DecidableEq, Repr

/-- The machine's state. -/
structure State where
  /-- 10_state.md R20, R25. -/
  phase : Phase
  /-- R21. -/
  variant : Variant
  /-- R22. -/
  ext : Bool
  /-- R31. -/
  hdrValid : Bool
  /-- R23. -/
  targetLen : BitVec 32
  /-- R24. -/
  flag : BitVec 8
  /-- R26. -/
  outLen : BitVec 32
  /-- R27: the block's program counter. -/
  inPos : BitVec 64
  /-- R28. -/
  copyRem : BitVec 17
  /-- R29. -/
  copyDist : BitVec 13
  /-- R30. -/
  err : ErrKind
  /-- R30. -/
  errInfo : BitVec 32
  /-- IN: the byte sequence bound at START, or no binding (20_memory.md R51, 10_state.md R40). -/
  input : Option (List Byte)
  /-- OUT (20_memory.md R52). -/
  out : Memory
  /-- The stream the host presents at the input port: START's argument (41_main_loop.md R120). -/
  port : List Byte
  /-- What the outside world does next, in order (log entry 1). -/
  events : List HostEvent
  /-- What the host's last read returned. -/
  reply : Option Reply
  /-- The host has read STATUS.STATE = DONE of this decode (20_memory.md R63 (a), R64; 70_reset_and_hazards.md R236). -/
  doneSeen : Bool
  /-- The model's own counter of draws: the next free value is Config.freeByte of it (log entry 3). -/
  draws : Nat
  /-- The implementation's parameters (00_scope.md R7); no step changes them. -/
  cfg : Config
deriving DecidableEq, Repr

/-- The machine right after reset (10_state.md R40). The spec gives `flag`, `copy_rem` and `copy_dist` no value: 0 is a
DESIGN CHOICE (log entry 2). OUT lists nothing, since its contents are unspecified. The last six fields are the
environment's or the model's (log entries 1, 3, 5, 6). -/
def State.reset : State where
  phase := .idle
  variant := .lzss10
  ext := false
  hdrValid := false
  targetLen := 0
  flag := 0
  outLen := 0
  inPos := 0
  copyRem := 0
  copyDist := 0
  err := .none
  errInfo := 0
  input := none
  out := []
  port := []
  events := []
  reply := none
  doneSeen := false
  draws := 0
  cfg := Config.default

end Sys2Proof.Machine
end

