-- ==== Sys2Proof/Machine/Ops.lean ====
section
/-! DEFINITION. The named operations over memory and registers, taking an exception, and START, which is the only way out of
ERROR but reset. Each is one record update, so that a lemma a field says all it does. -/

namespace Sys2Proof.Machine

/-- The stored byte at a position; none where nothing is listed. -/
def Memory.read : Memory → Nat → Option Byte
  | [], _ => none
  | (k, v) :: m, a => if k = a then some v else Memory.read m a

/-- Store one byte, keeping the addresses strictly rising. -/
def Memory.write : Memory → Nat → Byte → Memory
  | [], a, b => [(a, b)]
  | (k, v) :: m, a, b =>
    if a < k then (a, b) :: (k, v) :: m
    else if a = k then (a, b) :: m
    else (k, v) :: Memory.write m a b

/-- Forget what a position holds: it is unspecified from now on. -/
def Memory.forget : Memory → Nat → Memory
  | [], _ => []
  | (k, v) :: m, a => if k = a then m else (k, v) :: Memory.forget m a

/-- The canonical form: addresses strictly rising. (No listed entry can equal what an unlisted position reads as, since that
is no value.) -/
def Memory.wf : Memory → Bool
  | [] => true
  | [_] => true
  | (a, _) :: (b, v) :: m => decide (a < b) && Memory.wf ((b, v) :: m)

/-- Every listed position is one of the positions 0 .. cap-1 of OUT (20_memory.md R52). -/
def Memory.inside (m : Memory) (cap : Nat) : Bool := m.all fun cell => decide (cell.1 < cap)

/-- The engine is running: STATE reads BUSY (10_state.md R35). -/
def Phase.busy : Phase → Bool
  | .idle => false
  | .header => true
  | .needFlag => true
  | .bit _ => true
  | .copy _ => true
  | .done => false
  | .error => false

/-- The numeric code of an error kind (60_exceptions.md R200). -/
def ErrKind.code : ErrKind → BitVec 2
  | .none => 0
  | .invalidHeader => 1
  | .unexpectedEof => 2
  | .invalidBackReference => 3

/-- The bound input as a byte sequence; with no binding there is no byte. -/
def State.inputBytes (s : State) : List Byte := s.input.getD []

/-- The byte `InRead()` would return, none at the end of the input (20_memory.md R51). -/
def State.nextByte (s : State) : Option Byte := s.inputBytes[s.inPos.toNat]?

/-- The input bytes from `in_pos` on. -/
def State.remaining (s : State) : List Byte := s.inputBytes.drop s.inPos.toNat

/-- Successful `InRead()`s of k bytes: each adds exactly 1 to `in_pos` (10_state.md R27). -/
def State.consume (s : State) (k : Nat) : State := { s with inPos := s.inPos + BitVec.ofNat 64 k }

/-- TAKING AN EXCEPTION: `raise E(info)`, the fault entry of 60_exceptions.md R204. It writes `err`, `err_info` and `phase` and
saves nothing else. No return from it exists (R207). -/
def State.raise (s : State) (e : ErrKind) (info : BitVec 32) : State :=
  { s with err := e, errInfo := info, phase := .error }

/-- An accepted START of the stream `input'` (41_main_loop.md R120). It leaves ERROR and clears `err` and `err_info` (R207).
What the host saw of an earlier decode no longer counts (20_memory.md R63). -/
def State.started (s : State) (input' : List Byte) : State :=
  { s with
    input := some input', inPos := 0, outLen := 0, targetLen := 0, variant := .lzss10, ext := false,
    hdrValid := false, err := .none, errInfo := 0, phase := .header, doneSeen := false }

/-- The START command: ignored while BUSY (41_main_loop.md R120). -/
def State.start (s : State) (input' : List Byte) : State :=
  if s.phase.busy then s else s.started input'

/-- The memory effect of `OutAppend(v)` (20_memory.md R52): write at `out_len`, then add 1 to it. -/
def State.appended (s : State) (v : Byte) : State :=
  { s with out := s.out.write s.outLen.toNat v, outLen := s.outLen + 1 }

/-- `OutAppend(v)` and what follows it. A position at or above OUT_CAPACITY does not exist (20_memory.md R52). -/
def State.outAppend (s : State) (v : Byte) (k : State → Host.Outcome State Fault Refusal) :
    Host.Outcome State Fault Refusal :=
  if s.outLen.toNat < s.cfg.outCapacity then k (s.appended v) else .fault .outPositionAbsent

/-- The state after one draw. -/
def State.drew (s : State) : State := { s with draws := s.draws + 1 }

/-- `MemRead(OUT, a, 1)`: the byte last written at a (20_memory.md R52). Where nothing is stored, which no reachable state
asks for, the byte is a draw (log entry 4). -/
def State.outByte (s : State) (a : Nat) : Byte := (s.out.read a).getD (Config.freeByte s.draws)

/-- The state after `MemRead(OUT, a, 1)`: unchanged but for the draw counter where the byte was a draw. -/
def State.afterOutRead (s : State) (a : Nat) : State := if (s.out.read a).isSome then s else s.drew

/-- The phase `Advance(n)` moves to (41_main_loop.md R125). -/
def State.phaseAfter (s : State) (n : Fin 8) : Phase :=
  if s.targetLen ≤ s.outLen then .done else if n = 7 then .needFlag else .bit (n + 1)

/-- `Advance(n)` (41_main_loop.md R125). -/
def State.advance (s : State) (n : Fin 8) : State := { s with phase := s.phaseAfter n }

/-- A back-reference loads the copy registers and starts the copy (41_main_loop.md R124). -/
def State.loadCopy (s : State) (n : Fin 8) (len : BitVec 17) (dist : BitVec 13) : State :=
  { s with copyRem := len, copyDist := dist, phase := .copy n }

/-- The header's writes when it succeeds (40_header.md R100, R106). -/
def State.headerAccepted (s : State) (v : Variant) (e : Bool) (t : BitVec 32) : State :=
  { s with
    variant := v, ext := e, targetLen := t, hdrValid := true,
    phase := if t = 0 then .done else .needFlag }

/-- The reset event (70_reset_and_hazards.md R230, 10_state.md R40): every register at its reset value, the input unbound, OUT
unspecified. What stands outside the block stays: the parameters, the port, what the host does next and has read. -/
def State.afterReset (s : State) : State :=
  { State.reset with cfg := s.cfg, port := s.port, events := s.events, reply := s.reply, draws := s.draws }

end Sys2Proof.Machine
end

