-- ==== Sys2Proof/Machine/Operands.lean ====
section
/-! DEFINITION. Operand assembly (30_encoding.md R72, R73, R81): lengths have 17 bits and distances 13. -/

namespace Sys2Proof.Machine

/-- `distance = zext_13(D) + 1`, the same in every token (R81). -/
def distanceOf (d : BitVec 12) : BitVec 13 := d.zeroExtend 13 + 1

/-- REF10: `length = zext_17(L) + 3` (R81). -/
def lengthRef10 (l : BitVec 4) : BitVec 17 := l.zeroExtend 17 + 3

/-- REF11S: `length = zext_17(L) + 1` (R81). -/
def lengthRef11S (l : BitVec 4) : BitVec 17 := l.zeroExtend 17 + 1

/-- REF11M: `length = zext_17(L) + BIAS3` (R81). -/
def lengthRef11M (c : Config) (l : BitVec 8) : BitVec 17 := l.zeroExtend 17 + c.bias3

/-- REF11L: `length = zext_17(L) + BIAS4` (R81). -/
def lengthRef11L (c : Config) (l : BitVec 16) : BitVec 17 := l.zeroExtend 17 + c.bias4

/-- The short header: `target_len = zext_32(len24)` (R72). -/
def targetOfLen24 (n : BitVec 24) : BitVec 32 := n.zeroExtend 32

/-- `zext_32(dist)`, for the test against `out_len` and for `err_info` (41_main_loop.md R124). -/
def wideDistance (d : BitVec 13) : BitVec 32 := d.zeroExtend 32

end Sys2Proof.Machine
end

