-- ==== Sys2Proof/Machine/Flags.lean ====
section
/-! DEFINITION. The flag byte's bits (41_main_loop.md R122) and the fields of STATUS (10_state.md R35). -/

namespace Sys2Proof.Machine

/-- Cursor n examines `flag[7-n]`: most significant bit first (41_main_loop.md R122). -/
def flagBit (f : Byte) (n : Fin 8) : Bool := f.getLsbD (7 - n.val)

/-- STATUS.STATE (R35). -/
def stateCode : Phase → BitVec 2
  | .idle => 0
  | .header => 1
  | .needFlag => 1
  | .bit _ => 1
  | .copy _ => 1
  | .done => 2
  | .error => 3

/-- The STATUS word (R35): 31:7 reserved, EXT, VARIANT, HDR_VALID, ERR, STATE. VARIANT and EXT read 0 while `hdr_valid` is 0. -/
def statusWord (s : State) : Word :=
  (0 : BitVec 25) ++ BitVec.ofBool (s.hdrValid && s.ext) ++ BitVec.ofBool (s.hdrValid && s.variant.bit)
    ++ BitVec.ofBool s.hdrValid ++ s.err.code ++ stateCode s.phase

end Sys2Proof.Machine
end

