-- ==== Sys2Proof/Machine/Command.lean ====
section
/-! DEFINITION. START: the host command that runs one decompress operation (41_main_loop.md R120). -/

namespace Sys2Proof.Machine

/-- START of the stream the host presents at the input port (R120). It never faults and is ignored while BUSY. -/
def execStart (s : State) : Host.Outcome State Fault Refusal := .next (s.start s.port)

end Sys2Proof.Machine
end

