-- ==== Sys2Proof/Machine/Copy.lean ====
section
/-! DEFINITION. COPY: one step of the sliding-window copy engine (42_copy_engine.md R140). -/

namespace Sys2Proof.Machine

/-- `src <- out_len - copy_dist`, 32 bits (R140). -/
def copySource (s : State) : BitVec 32 := s.outLen - wideDistance s.copyDist

/-- The end of the copy step, after OutAppend (R140, R143): count down, and leave the copy at its end or at the target. -/
def copyTail (n : Fin 8) (s : State) : State :=
  if s.copyRem - 1 = 0 ∨ s.outLen = s.targetLen then { s with copyRem := 0 }.advance n
  else { s with copyRem := s.copyRem - 1 }

/-- COPY (R140). -/
def execCopy (s : State) : Host.Outcome State Fault Refusal :=
  match s.phase with
  | .copy n =>
    (s.afterOutRead (copySource s).toNat).outAppend (s.outByte (copySource s).toNat)
      (fun t => .next (copyTail n t))
  | _ => .refused .notSelected

end Sys2Proof.Machine
end

