-- ==== Sys2Proof/Machine/Header.lean ====
section
/-! DEFINITION. HDR10, HDR11, HDR10X, HDR11X: the header step once its bytes are read (40_header.md R100 to R108). -/

namespace Sys2Proof.Machine

/-- The end of the header step: the capacity test of R108, then the writes of R100. -/
def acceptHeader (v : Variant) (e : Bool) (t : BitVec 32) (s : State) : Host.Outcome State Fault Refusal :=
  if s.cfg.outCapacity < t.toNat then .refused .outCapacityExceeded else .next (s.headerAccepted v e t)

/-- A header is read in phase HEADER only (30_encoding.md R70). It consumes its own width. -/
def headerStep (v : Variant) (e : Bool) (t : BitVec 32) (width : Nat) (s : State) :
    Host.Outcome State Fault Refusal :=
  match s.phase with
  | .header => acceptHeader v e t (s.consume width)
  | _ => .refused .notSelected

/-- HDR10 (R101). -/
def execHdr10 (len24 : BitVec 24) (s : State) : Host.Outcome State Fault Refusal :=
  headerStep .lzss10 false (targetOfLen24 len24) 4 s

/-- HDR11 (R102). -/
def execHdr11 (len24 : BitVec 24) (s : State) : Host.Outcome State Fault Refusal :=
  headerStep .lzss11 false (targetOfLen24 len24) 4 s

/-- HDR10X (R103). -/
def execHdr10x (len32 : BitVec 32) (s : State) : Host.Outcome State Fault Refusal :=
  headerStep .lzss10 true len32 8 s

/-- HDR11X (R104). -/
def execHdr11x (len32 : BitVec 32) (s : State) : Host.Outcome State Fault Refusal :=
  headerStep .lzss11 true len32 8 s

end Sys2Proof.Machine
end

