-- ==== Sys2Proof/Machine/Loop.lean ====
section
/-! DEFINITION. FLAG and LIT, the elements of the main loop that both variants share (41_main_loop.md R121 to R123). -/

namespace Sys2Proof.Machine

/-- FLAG (R121): `flag <- F`, `phase <- BIT(0)`. -/
def execFlag (f : BitVec 8) (s : State) : Host.Outcome State Fault Refusal :=
  match s.phase with
  | .needFlag => .next { s.consume 1 with flag := f, phase := .bit 0 }
  | _ => .refused .notSelected

/-- LIT (R123): append the byte, then `Advance(n)`. -/
def execLit (v : BitVec 8) (s : State) : Host.Outcome State Fault Refusal :=
  match s.phase with
  | .bit n =>
    if flagBit s.flag n = false then (s.consume 1).outAppend v (fun t => .next (t.advance n))
    else .refused .notSelected
  | _ => .refused .notSelected

end Sys2Proof.Machine
end

