-- ==== Sys2Proof/Machine/Token.lean ====
section
/-! DEFINITION. REF10, REF11S, REF11M, REF11L: the back-reference step once its token is read (41_main_loop.md R124). -/

namespace Sys2Proof.Machine

/-- The back-reference step after the token decoder returned (len, dist) (R124): the distance test, the zero-length arm,
then the copy registers. -/
def backRef (n : Fin 8) (len : BitVec 17) (dist : BitVec 13) (s : State) : State :=
  if s.outLen < wideDistance dist then s.raise .invalidBackReference (wideDistance dist)
  else if len = 0 then s.advance n
  else s.loadCopy n len dist

/-- A token is read in phase BIT(n) with `flag[7-n]` = 1 and its own variant (30_encoding.md R70). It consumes its width. -/
def tokenStep (v : Variant) (len : BitVec 17) (dist : BitVec 13) (width : Nat) (s : State) :
    Host.Outcome State Fault Refusal :=
  match s.phase with
  | .bit n =>
    if flagBit s.flag n = true ∧ s.variant = v then .next (backRef n len dist (s.consume width))
    else .refused .notSelected
  | _ => .refused .notSelected

/-- REF10 (43_lzss10_token.md R160). -/
def execRef10 (l : BitVec 4) (d : BitVec 12) (s : State) : Host.Outcome State Fault Refusal :=
  tokenStep .lzss10 (lengthRef10 l) (distanceOf d) 2 s

/-- REF11S (44_lzss11_tokens.md R181). -/
def execRef11s (l : BitVec 4) (d : BitVec 12) (s : State) : Host.Outcome State Fault Refusal :=
  tokenStep .lzss11 (lengthRef11S l) (distanceOf d) 2 s

/-- REF11M (44_lzss11_tokens.md R182). -/
def execRef11m (l : BitVec 8) (d : BitVec 12) (s : State) : Host.Outcome State Fault Refusal :=
  tokenStep .lzss11 (lengthRef11M s.cfg l) (distanceOf d) 3 s

/-- REF11L (44_lzss11_tokens.md R183). -/
def execRef11l (l : BitVec 16) (d : BitVec 12) (s : State) : Host.Outcome State Fault Refusal :=
  tokenStep .lzss11 (lengthRef11L s.cfg l) (distanceOf d) 4 s

end Sys2Proof.Machine
end

