-- ==== Sys2Proof/Machine/Dispatch.lean ====
section
/-! DEFINITION. One arm for each instruction: a direct call of its meaning. -/

namespace Sys2Proof.Machine

def exec (i : Instr) (s : State) : Host.Outcome State Fault Refusal :=
  match i with
  | .hdr10 len24 => Sys2Proof.Machine.execHdr10 len24 s
  | .hdr11 len24 => Sys2Proof.Machine.execHdr11 len24 s
  | .hdr10x len32 => Sys2Proof.Machine.execHdr10x len32 s
  | .hdr11x len32 => Sys2Proof.Machine.execHdr11x len32 s
  | .flag f => Sys2Proof.Machine.execFlag f s
  | .lit v => Sys2Proof.Machine.execLit v s
  | .ref10 l d => Sys2Proof.Machine.execRef10 l d s
  | .ref11s l d => Sys2Proof.Machine.execRef11s l d s
  | .ref11m l d => Sys2Proof.Machine.execRef11m l d s
  | .ref11l l d => Sys2Proof.Machine.execRef11l l d s
  | .copy => Sys2Proof.Machine.execCopy s
  | .start => Sys2Proof.Machine.execStart s

end Sys2Proof.Machine
end

