-- ==== Sys2Proof/Machine/Fetch.lean ====
section
/-! DEFINITION. The engine's step (41_main_loop.md R127): select the element, read its bytes, run it. And where a test places
an instruction so that the next step runs it. -/

namespace Sys2Proof.Machine

/-- Which element the state selects (30_encoding.md R70, 41_main_loop.md R127); none where the engine takes no step. -/
def nextContext (s : State) : Option Context :=
  match s.phase with
  | .idle => none
  | .header => some .header
  | .needFlag => some .flagByte
  | .bit n =>
    if flagBit s.flag n then
      match s.variant with
      | .lzss10 => some .token10
      | .lzss11 => some .token11
    else some .literal
  | .copy _ => some .copyStep
  | .done => none
  | .error => none

/-- Run what the decoder answered. A truncated element raises UnexpectedEof(0) with every byte that was there consumed
(20_memory.md R51, 60_exceptions.md R202); an invalid tag raises InvalidHeader(zext_32(tag)) with the tag consumed
(40_header.md R105); a CTRL word that is no command has no effect (10_state.md R34). -/
def runDecoded (s : State) : Decoded → Host.Outcome State Fault Refusal
  | .ok i _ => exec i s
  | .truncated => .next ((s.consume s.remaining.length).raise .unexpectedEof 0)
  | .invalidTag tag => .next ((s.consume 1).raise .invalidHeader (tag.zeroExtend 32))
  | .noCommand => .next s

/-- One engine step (41_main_loop.md R127). In IDLE, DONE and ERROR the engine takes no step: the state stays (log entry 7). -/
def engineStep (s : State) : Host.Outcome State Fault Refusal :=
  match nextContext s with
  | none => .next s
  | some c => runDecoded s (decode c s.remaining)

/-- The input whose first `pos` bytes are those of `old`, padded with zeros, followed by `bytes`. -/
def inputWith (old : List Byte) (pos : Nat) (bytes : List Byte) : List Byte :=
  (old ++ List.replicate (pos - old.length) 0).take pos ++ bytes

/-- The least change of the state that makes it select a context (30_encoding.md R70). -/
def selectContext (c : Context) (s : State) : State :=
  match c with
  | .header => { s with phase := .header }
  | .flagByte => { s with phase := .needFlag }
  | .literal => { s with phase := .bit 0, flag := s.flag &&& 0x7F }
  | .token10 => { s with phase := .bit 0, flag := s.flag ||| 0x80, variant := .lzss10 }
  | .token11 => { s with phase := .bit 0, flag := s.flag ||| 0x80, variant := .lzss11 }
  | .copyStep => { s with phase := .copy 0 }
  | .ctrlWrite => s

/-- Place an element's bytes at `in_pos`, select its context and let the engine move next. -/
def placeElement (c : Context) (bytes : List Byte) (s : State) : State :=
  selectContext c
    { s with
      events := .engine :: s.events
      input := if c = .copyStep then s.input else some (inputWith s.inputBytes s.inPos.toNat bytes) }

/-- Place a number of the opcode table where the next step takes its instruction from (log entry 11): its bytes at `in_pos`, and
the state that selects its context; or, for a CTRL word, the host's write of it as the next event. -/
def placeTableWord (nbits w : Nat) (s : State) : State :=
  match tableContext nbits w with
  | none => s
  | some .ctrlWrite => { s with events := .regWrite s.cfg.regBase 4 (BitVec.ofNat 32 w) :: s.events }
  | some c => placeElement c (tableStream c nbits w) s

end Sys2Proof.Machine
end

