-- ==== Sys2Proof/Machine/HostPort.lean ====
section
/-! DEFINITION. The host agent: the register window (10_state.md R33 to R37), OUT (20_memory.md R63), the input port and
reset (70_reset_and_hazards.md R230, R235). And which agent moves. -/

namespace Sys2Proof.Machine

/-- The register at a byte offset (10_state.md R33). -/
def regAt : Nat → Option Reg
  | 0x00 => some .ctrl
  | 0x04 => some .status
  | 0x08 => some .targetLen
  | 0x0C => some .outLen
  | 0x10 => some .inPosLo
  | 0x14 => some .inPosHi
  | 0x18 => some .errInfo
  | _ => none

/-- The register an access reaches: 32 bits wide, aligned and mapped, or none (10_state.md R37, 20_memory.md R56). -/
def regOf (c : Config) (addr size : Nat) : Option Reg :=
  if size = 4 ∧ addr % 4 = 0 ∧ c.regBase ≤ addr then regAt (addr - c.regBase) else none

/-- What a read of a register returns (10_state.md R33 to R36). -/
def readReg (s : State) : Reg → Word
  | .ctrl => 0
  | .status => statusWord s
  | .targetLen => if s.hdrValid then s.targetLen else 0
  | .outLen => s.outLen
  | .inPosLo => s.inPos.extractLsb' 0 32
  | .inPosHi => s.inPos.extractLsb' 32 32
  | .errInfo => s.errInfo

/-- Reading STATUS with STATE = DONE is the synchronisation point of 20_memory.md R63 (a) and R64. -/
def seesDone (s : State) (r : Reg) : Bool := decide (r = .status) && decide (s.phase = .done)

/-- The state after a register read: the value is returned, and nothing of the engine changes (20_memory.md R59). -/
def afterRegRead (s : State) (r : Reg) : State :=
  { s with reply := some (.word (readReg s r)), doneSeen := s.doneSeen || seesDone s r }

/-- The bytes of a word, little-endian (20_memory.md R56). -/
def wordBytes (v : Word) : List Byte := [byteOf v 0, byteOf v 1, byteOf v 2, byteOf v 3]

/-- A register write (10_state.md R34 to R36): CTRL is a command register, the others ignore writes. -/
def writeReg (s : State) (v : Word) : Reg → Host.Outcome State Fault Refusal
  | .ctrl => runDecoded s (decode .ctrlWrite (wordBytes v))
  | .status => .next s
  | .targetLen => .next s
  | .outLen => .next s
  | .inPosLo => .next s
  | .inPosHi => .next s
  | .errInfo => .next s

/-- The reads of OUT that return what the engine wrote: after the host has read STATE = DONE, below `target_len`
(20_memory.md R63 (a)). Every other read is a draw (R63 (b), 60_exceptions.md R209, 70_reset_and_hazards.md R236). -/
def outReadable (s : State) (pos : BitVec 32) : Bool :=
  decide (s.phase = .done) && s.doneSeen && decide (pos < s.targetLen)

/-- A host read of OUT (20_memory.md R63). -/
def hostOutRead (s : State) (pos : BitVec 32) : Host.Outcome State Fault Refusal :=
  if s.cfg.outCapacity ≤ pos.toNat then .fault .outPositionAbsent
  else if outReadable s pos then
    .next { s.afterOutRead pos.toNat with reply := some (.byte (s.outByte pos.toNat)) }
  else .next { s.drew with reply := some (.byte (Config.freeByte s.draws)) }

/-- A host write of OUT. While BUSY it has no meaning (70_reset_and_hazards.md R235). Otherwise the spec states no result: the
position is unspecified from then on (log entry 8). -/
def hostOutWrite (s : State) (pos : BitVec 32) : Host.Outcome State Fault Refusal :=
  if s.phase.busy then .refused .hostWroteOutWhileBusy
  else if s.cfg.outCapacity ≤ pos.toNat then .fault .outPositionAbsent
  else .next { s with out := s.out.forget pos.toNat }

/-- The host presents a stream at the port. While BUSY it must not change or withdraw the bound input
(70_reset_and_hazards.md R235). -/
def hostPresent (s : State) (bytes : List Byte) : Host.Outcome State Fault Refusal :=
  if s.phase.busy ∧ s.input ≠ some bytes then .refused .hostChangedInputWhileBusy
  else .next { s with port := bytes }

/-- One event of the outside world, at a step boundary of the engine (10_state.md R36). -/
def eventStep (e : HostEvent) (s : State) : Host.Outcome State Fault Refusal :=
  match e with
  | .engine => engineStep s
  | .present bytes => hostPresent s bytes
  | .regRead addr size =>
    match regOf s.cfg addr size with
    | some r => .next (afterRegRead s r)
    | none => .refused .registerUnmapped
  | .regWrite addr size v =>
    match regOf s.cfg addr size with
    | some r => writeReg s v r
    | none => .refused .registerUnmapped
  | .outRead pos => hostOutRead s pos
  | .outWrite pos _ => hostOutWrite s pos
  | .reset => .next s.afterReset

/-- Which agent moves: the first event that is left, and the engine when there is none (log entry 1). -/
def runAgent (s : State) : Host.Outcome State Fault Refusal :=
  match s.events with
  | [] => engineStep s
  | e :: rest => eventStep e { s with events := rest }

end Sys2Proof.Machine
end

