-- ==== Sys2Proof/Machine/Step.lean ====
section
/-! DEFINITION. One step of the machine, and where a test places its next instruction. -/

namespace Sys2Proof.Machine

/-- One step: of the host where it has something to do, else of the engine (41_main_loop.md R127). -/
def step : State → Host.Outcome State Fault Refusal := fun s => Sys2Proof.Machine.runAgent s

/-- The state with a number of the opcode table placed so that the very next step runs it (log entries 10, 11). -/
def State.withFetchWord (s : State) (nbits w : Nat) : State := Sys2Proof.Machine.placeTableWord nbits w s

end Sys2Proof.Machine
end

