-- ==== Sys2Proof/Machine/Listing.lean ====
section
/-! DEFINITION. The listing notation and its pseudo-elements (30_encoding.md R87, R88), with the byte formulas as the spec
gives them. It restricts nothing the decoder accepts (R86). -/

namespace Sys2Proof.Machine

/-- One line of a listing: the mnemonics of R87, then the pseudo-elements of R88. -/
inductive ListingItem where
  | hdr10 (n : Nat)
  | hdr11 (n : Nat)
  | hdr10x (n : Nat)
  | hdr11x (n : Nat)
  | flags (f : Byte)
  | lit (v : Byte)
  | ref10 (len dist : Nat)
  | ref11s (len dist : Nat)
  | ref11m (len dist : Nat)
  | ref11l (len dist : Nat)
  | byte (v : Byte)
  /-- `HDR v, n`. -/
  | hdr (v : Variant) (n : Nat)
  /-- `REF11 len, dist`. -/
  | ref11 (len dist : Nat)
deriving DecidableEq, Repr

/-- The tag of a variant (00_scope.md R6). -/
def tagOf : Variant → Byte
  | .lzss10 => tagLzss10
  | .lzss11 => tagLzss11

/-- Byte k of a number: `n[8k+7:8k]`. -/
def natByte (n k : Nat) : Byte := BitVec.ofNat 8 (n / 256 ^ k)

/-- `HDR10 n`, `HDR11 n`: n in 1..0xFFFFFF (R87). -/
def assembleShort (v : Variant) (n : Nat) : Option (List Byte) :=
  if 1 ≤ n ∧ n ≤ 0xFFFFFF then some [tagOf v, natByte n 0, natByte n 1, natByte n 2] else none

/-- `HDR10X n`, `HDR11X n`: n in 0..0xFFFFFFFF (R87). -/
def assembleExtended (v : Variant) (n : Nat) : Option (List Byte) :=
  if n ≤ 0xFFFFFFFF then some [tagOf v, 0, 0, 0, natByte n 0, natByte n 1, natByte n 2, natByte n 3] else none

/-- The range of the distance operand (R87). The rows of REF11M and REF11L leave it out: DEDUCED from the 12-bit field
(log entry 12). -/
def distInRange (dist : Nat) : Bool := decide (1 ≤ dist) && decide (dist ≤ 4096)

/-- The two bytes of a 2-byte token (R87): `f<<4 | (dist-1)>>8`, `(dist-1) & 0xFF`. -/
def twoBytes (f dist : Nat) : List Byte :=
  [BitVec.ofNat 8 (f * 16 + (dist - 1) / 256), BitVec.ofNat 8 ((dist - 1) % 256)]

/-- `REF10 len, dist` (R87). -/
def assembleRef10 (len dist : Nat) : Option (List Byte) :=
  if 3 ≤ len ∧ len ≤ 18 ∧ distInRange dist then some (twoBytes (len - 3) dist) else none

/-- `REF11S len, dist` (R87). -/
def assembleRef11S (len dist : Nat) : Option (List Byte) :=
  if 3 ≤ len ∧ len ≤ 16 ∧ distInRange dist then some (twoBytes (len - 1) dist) else none

/-- `REF11M len, dist` with f = len - BIAS3 (R87): `f>>4`, `(f&0xF)<<4 | (dist-1)>>8`, `(dist-1) & 0xFF`. -/
def assembleRef11M (c : Config) (len dist : Nat) : Option (List Byte) :=
  if c.bias3.toNat ≤ len ∧ len ≤ c.bias3.toNat + 255 ∧ distInRange dist then
    some (BitVec.ofNat 8 ((len - c.bias3.toNat) / 16) :: twoBytes ((len - c.bias3.toNat) % 16) dist)
  else none

/-- `REF11L len, dist` with f = len - BIAS4 (R87): `0x10 | f>>12`, `(f>>4) & 0xFF`, then as REF11M. -/
def assembleRef11L (c : Config) (len dist : Nat) : Option (List Byte) :=
  if c.bias4.toNat ≤ len ∧ len ≤ c.bias4.toNat + 65535 ∧ distInRange dist then
    some (BitVec.ofNat 8 (16 + (len - c.bias4.toNat) / 4096) :: BitVec.ofNat 8 ((len - c.bias4.toNat) / 16 % 256)
      :: twoBytes ((len - c.bias4.toNat) % 16) dist)
  else none

/-- `REF11 len, dist` picks the tier by the length (R88; the bounds assume the default biases). -/
def assembleRef11 (c : Config) (len dist : Nat) : Option (List Byte) :=
  if len ≤ 16 then assembleRef11S len dist
  else if len ≤ 272 then assembleRef11M c len dist
  else if len ≤ 65808 then assembleRef11L c len dist
  else none

/-- `HDR v, n` takes the extended form exactly when n is 0 or does not fit 24 bits (R88). -/
def assembleHdr (v : Variant) (n : Nat) : Option (List Byte) :=
  if n = 0 ∨ 0xFFFFFF < n then assembleExtended v n else assembleShort v n

/-- The bytes a line emits, or none: an operand outside its range does not assemble (R87). -/
def assembleItem (c : Config) : ListingItem → Option (List Byte)
  | .hdr10 n => assembleShort .lzss10 n
  | .hdr11 n => assembleShort .lzss11 n
  | .hdr10x n => assembleExtended .lzss10 n
  | .hdr11x n => assembleExtended .lzss11 n
  | .flags f => some [f]
  | .lit v => some [v]
  | .ref10 len dist => assembleRef10 len dist
  | .ref11s len dist => assembleRef11S len dist
  | .ref11m len dist => assembleRef11M c len dist
  | .ref11l len dist => assembleRef11L c len dist
  | .byte v => some [v]
  | .hdr v n => assembleHdr v n
  | .ref11 len dist => assembleRef11 c len dist

/-- A whole listing; none if one line does not assemble. -/
def assemble (c : Config) : List ListingItem → Option (List Byte)
  | [] => some []
  | item :: items =>
    match assembleItem c item, assemble c items with
    | some bytes, some rest => some (bytes ++ rest)
    | _, _ => none

end Sys2Proof.Machine
end

