-- ==== Sys2Proof/Machine/Pseudo.lean ====
section
/-! DEFINITION. The spec's pseudocode for the engine, transcribed read by read: R51, R100, R121 to R125, R140, R160, R180. The
machine does not run it. It is what the refinement statement holds engineStep against. -/

namespace Sys2Proof.Machine

/-- `b <- InRead()` and the rest of the block; at the end of the input it raises UnexpectedEof(0), which ends the block
(20_memory.md R51, 00_scope.md R11). -/
def inReadThen (s : State) (k : Byte → State → Host.Outcome State Fault Refusal) :
    Host.Outcome State Fault Refusal :=
  match s.nextByte with
  | some b => k b (s.consume 1)
  | none => .next (s.raise .unexpectedEof 0)

/-- The end of HeaderStep(): from the capacity test on (40_header.md R100). -/
def pseudoAccept (v : Variant) (t : BitVec 32) (e : Bool) (s : State) : Host.Outcome State Fault Refusal :=
  if t.toNat > s.cfg.outCapacity then .refused .outCapacityExceeded
  else
    let s := { s with variant := v, ext := e, targetLen := t, hdrValid := true }
    if t = 0 then .next { s with phase := .done } else .next { s with phase := .needFlag }

/-- HeaderStep() after the tag (40_header.md R100). -/
def pseudoLengths (v : Variant) (s : State) : Host.Outcome State Fault Refusal :=
  inReadThen s fun b1 s => inReadThen s fun b2 s => inReadThen s fun b3 s =>
    let len24 : BitVec 24 := b3 ++ b2 ++ b1
    if len24 ≠ 0 then pseudoAccept v (len24.zeroExtend 32) false s
    else
      inReadThen s fun c0 s => inReadThen s fun c1 s => inReadThen s fun c2 s => inReadThen s fun c3 s =>
        pseudoAccept v (c3 ++ c2 ++ c1 ++ c0) true s

/-- HeaderStep() (40_header.md R100). -/
def pseudoHeaderStep (s : State) : Host.Outcome State Fault Refusal :=
  inReadThen s fun tag s =>
    if tag = 0x10 then pseudoLengths .lzss10 s
    else if tag = 0x11 then pseudoLengths .lzss11 s
    else .next (s.raise .invalidHeader (tag.zeroExtend 32))

/-- FlagStep() (41_main_loop.md R121). -/
def pseudoFlagStep (s : State) : Host.Outcome State Fault Refusal :=
  inReadThen s fun b s => .next { s with flag := b, phase := .bit 0 }

/-- Advance(n) (41_main_loop.md R125). -/
def pseudoAdvance (n : Fin 8) (s : State) : State :=
  if s.outLen ≥ s.targetLen then { s with phase := .done }
  else if n.val < 7 then { s with phase := .bit (n + 1) }
  else { s with phase := .needFlag }

/-- LitStep(n) (41_main_loop.md R123). -/
def pseudoLitStep (n : Fin 8) (s : State) : Host.Outcome State Fault Refusal :=
  inReadThen s fun b s => s.outAppend b fun s => .next (pseudoAdvance n s)

/-- DecodeRef10() (43_lzss10_token.md R160). -/
def pseudoDecodeRef10 (s : State) (k : BitVec 17 → BitVec 13 → State → Host.Outcome State Fault Refusal) :
    Host.Outcome State Fault Refusal :=
  inReadThen s fun b0 s => inReadThen s fun b1 s =>
    let v : BitVec 16 := b0 ++ b1
    k ((v.extractLsb' 12 4).zeroExtend 17 + 3) ((v.extractLsb' 0 12).zeroExtend 13 + 1) s

/-- DecodeRef11() (44_lzss11_tokens.md R180). -/
def pseudoDecodeRef11 (s : State) (k : BitVec 17 → BitVec 13 → State → Host.Outcome State Fault Refusal) :
    Host.Outcome State Fault Refusal :=
  inReadThen s fun b0 s =>
    let h := b0.extractLsb' 4 4
    if h = 0x0 then
      inReadThen s fun b1 s => inReadThen s fun b2 s =>
        k ((b0.extractLsb' 0 4 ++ b1.extractLsb' 4 4).zeroExtend 17 + s.cfg.bias3)
          ((b1.extractLsb' 0 4 ++ b2).zeroExtend 13 + 1) s
    else if h = 0x1 then
      inReadThen s fun b1 s => inReadThen s fun b2 s => inReadThen s fun b3 s =>
        k ((b0.extractLsb' 0 4 ++ b1 ++ b2.extractLsb' 4 4).zeroExtend 17 + s.cfg.bias4)
          ((b2.extractLsb' 0 4 ++ b3).zeroExtend 13 + 1) s
    else
      inReadThen s fun b1 s => k (h.zeroExtend 17 + 1) ((b0.extractLsb' 0 4 ++ b1).zeroExtend 13 + 1) s

/-- BackRefStep(n) (41_main_loop.md R124). -/
def pseudoBackRefStep (n : Fin 8) (s : State) : Host.Outcome State Fault Refusal :=
  let checked := fun (len : BitVec 17) (dist : BitVec 13) (s : State) =>
    if dist.zeroExtend 32 > s.outLen then
      Host.Outcome.next (s.raise .invalidBackReference (dist.zeroExtend 32))
    else if len = 0 then Host.Outcome.next (pseudoAdvance n s)
    else Host.Outcome.next { s with copyRem := len, copyDist := dist, phase := .copy n }
  match s.variant with
  | .lzss10 => pseudoDecodeRef10 s checked
  | .lzss11 => pseudoDecodeRef11 s checked

/-- CopyStep(n) (42_copy_engine.md R140). -/
def pseudoCopyStep (n : Fin 8) (s : State) : Host.Outcome State Fault Refusal :=
  let src := s.outLen - s.copyDist.zeroExtend 32
  let b := s.outByte src.toNat
  (s.afterOutRead src.toNat).outAppend b fun s =>
    let s := { s with copyRem := s.copyRem - 1 }
    if s.copyRem = 0 ∨ s.outLen = s.targetLen then .next (pseudoAdvance n { s with copyRem := 0 }) else .next s

/-- The step function's dispatch (41_main_loop.md R127). -/
def pseudoEngineStep (s : State) : Host.Outcome State Fault Refusal :=
  match s.phase with
  | .idle => .next s
  | .header => pseudoHeaderStep s
  | .needFlag => pseudoFlagStep s
  | .bit n => if s.flag.getLsbD (7 - n.val) = false then pseudoLitStep n s else pseudoBackRefStep n s
  | .copy n => pseudoCopyStep n s
  | .done => .next s
  | .error => .next s

end Sys2Proof.Machine
end

