-- ==== Sys2Proof/Safety.lean ====
section
/-! DEFINITION. What the claims are stated in: the invariant (10_state.md R39), runs and what a run observes
(41_main_loop.md R128). -/

namespace Sys2Proof

open Sys2Proof.Machine

/-- The engine stands between the header and the end of the decode. -/
def Machine.Phase.decoding : Phase → Bool
  | .idle => false
  | .header => false
  | .needFlag => true
  | .bit _ => true
  | .copy _ => true
  | .done => false
  | .error => false

/-- The invariant: R39's clauses first, then what they rest on. It holds at reset and every step keeps it. -/
structure Machine.State.Inv (s : State) : Prop where
  /-- R39: `out_len <= target_len` whenever `hdr_valid` = 1. -/
  outLen_le : s.hdrValid = true → s.outLen ≤ s.targetLen
  /-- R39 in BIT(n) and COPY(n), and R121 in NEED_FLAG: `out_len < target_len`. -/
  outLen_lt : s.phase.decoding = true → s.outLen < s.targetLen
  /-- R39 and R145 in COPY(n): `1 <= copy_dist <= out_len`, `copy_dist <= 4096` and `copy_rem >= 1`. -/
  copy_ok : ∀ n, s.phase = .copy n →
    1 ≤ s.copyDist ∧ s.copyDist ≤ 4096 ∧ wideDistance s.copyDist ≤ s.outLen ∧ 1 ≤ s.copyRem
  /-- R39 in DONE: `out_len = target_len`. -/
  done_ok : s.phase = .done → s.outLen = s.targetLen
  /-- R31: the header has been accepted in every phase after HEADER but ERROR. -/
  hdr_ok : s.phase.decoding = true ∨ s.phase = .done → s.hdrValid = true
  /-- R31: it has not been in IDLE and HEADER. -/
  no_hdr : s.phase = .idle ∨ s.phase = .header → s.hdrValid = false
  /-- R100, R120: before the header is accepted its registers keep the 0 of START, and no byte has been produced. -/
  no_hdr_zero : s.hdrValid = false →
    s.variant = .lzss10 ∧ s.ext = false ∧ s.targetLen = 0 ∧ s.outLen = 0
  /-- R23: the 24-bit form leaves bits 31:24 of `target_len` zero, and its length is not 0 (R72). -/
  short_ok : s.hdrValid = true → s.ext = false → 0 < s.targetLen.toNat ∧ s.targetLen.toNat < 16777216
  /-- R35: ERR is non-zero exactly when STATE = 3. -/
  err_ok : s.err ≠ .none ↔ s.phase = .error
  /-- R51: while BUSY an input is bound, and `in_pos` is no further than its end. -/
  input_ok : s.phase.busy = true → ∃ bytes, s.input = some bytes ∧ s.inPos.toNat ≤ bytes.length
  /-- R52: while BUSY every position below `out_len` has been written. -/
  written : s.phase.busy = true → ∀ a, a < s.outLen.toNat → (s.out.read a).isSome = true
  /-- OUT is in its canonical form, inside its positions 0 .. OUT_CAPACITY-1. -/
  out_wf : s.out.wf = true ∧ s.out.inside s.cfg.outCapacity = true
  /-- R108: an accepted `target_len` fits OUT. -/
  fits : s.hdrValid = true → s.targetLen.toNat ≤ s.cfg.outCapacity
  /-- The parameters are within their bounds (R184). -/
  cfg_wf : s.cfg.wf = true

/-- The input ends inside the element that the state selects: some `InRead()` of the element finds no byte. Written from the
widths of 30_encoding.md R85 and the order of reads of 40_header.md R105 and 44_lzss11_tokens.md R180. -/
def endsInsideElement (s : State) : Bool :=
  match s.phase with
  | .idle => false
  | .header =>
    match s.remaining with
    | [] => true
    | [tag] => decide (tag = 0x10 ∨ tag = 0x11)
    | [tag, _] => decide (tag = 0x10 ∨ tag = 0x11)
    | [tag, _, _] => decide (tag = 0x10 ∨ tag = 0x11)
    | tag :: b1 :: b2 :: b3 :: rest =>
      decide (tag = 0x10 ∨ tag = 0x11) && decide (b1 = 0 ∧ b2 = 0 ∧ b3 = 0) && decide (rest.length < 4)
  | .needFlag => decide (s.remaining.length < 1)
  | .bit n =>
    if s.flag.getLsbD (7 - n.val) = false then decide (s.remaining.length < 1)
    else
      match s.variant, s.remaining with
      | .lzss10, bs => decide (bs.length < 2)
      | .lzss11, [] => true
      | .lzss11, b0 :: bs =>
        if b0.toNat / 16 = 0 then decide (bs.length < 2)
        else if b0.toNat / 16 = 1 then decide (bs.length < 3)
        else decide (bs.length < 1)
  | .copy _ => false
  | .done => false
  | .error => false

/-- Where the engine goes once flag bit n has been handled, with `outLen` bytes produced (41_main_loop.md R125). -/
def phaseOnceHandled (n : Fin 8) (outLen targetLen : Nat) : Phase :=
  if targetLen ≤ outLen then .done else if h : n.val < 7 then .bit ⟨n.val + 1, by omega⟩ else .needFlag

/-- The operands of a token under a configuration (30_encoding.md R81); none of any other instruction. -/
def tokenOperands (c : Config) : Instr → Option (BitVec 17 × BitVec 13)
  | .ref10 l d => some (lengthRef10 l, distanceOf d)
  | .ref11s l d => some (lengthRef11S l, distanceOf d)
  | .ref11m l d => some (lengthRef11M c l, distanceOf d)
  | .ref11l l d => some (lengthRef11L c l, distanceOf d)
  | _ => none

/-- The end of a run: the first state with phase DONE or ERROR (R128). -/
def Machine.State.ended (s : State) : Bool := decide (s.phase = .done) || decide (s.phase = .error)

/-- `k` steps, stopping at the first fault or refusal. -/
def run : Nat → State → Host.Outcome State Fault Refusal
  | 0, s => .next s
  | k + 1, s =>
    match step s with
    | .next t => run k t
    | .fault r => .fault r
    | .refused r => .refused r

/-- OUT[0 .. n-1]; none if a position has never been written. -/
def outPrefix (m : Memory) : Nat → Option (List Byte)
  | 0 => some []
  | n + 1 =>
    match outPrefix m n, Memory.read m n with
    | some bs, some b => some (bs ++ [b])
    | _, _ => none

/-- What a decode observes (R128). DONE: `Ok(OUT[0 .. target_len-1])` with `in_pos`, `variant`, `ext` and `target_len`.
ERROR: `Err(err, err_info)` with `in_pos` and `out_len`. -/
inductive Observation where
  | ok (bytes : List Byte) (inPos : BitVec 64) (variant : Variant) (ext : Bool) (targetLen : BitVec 32)
  | err (kind : ErrKind) (info : BitVec 32) (inPos : BitVec 64) (outLen : BitVec 32)
deriving DecidableEq, Repr

/-- The observation of a state that ended, none of one that did not (R128, 60_exceptions.md R209). -/
def observe (s : State) : Option Observation :=
  match s.phase with
  | .done => (outPrefix s.out s.targetLen.toNat).map fun bs => .ok bs s.inPos s.variant s.ext s.targetLen
  | .error => some (.err s.err s.errInfo s.inPos s.outLen)
  | _ => none

end Sys2Proof
end

