-- ==== Sys2Proof/Certificates/Slice0/Obligations.lean ====
section
/-! DEFINITION. What the provers are asked to prove about the machine. A next state written as t = { s with f := t.f, … } says
that t differs from s in the fields named and in nothing else, memory included. -/

open Sys2Proof Sys2Proof.Machine

/-! ### Encoding -/

/-- 30_encoding.md §2: the decoder undoes the encoder for every well-formed instruction with every operand, whatever
follows it. Log entry 9 names the bit order of REF11L's length. -/
def Obligations.DecodeEncodeRoundTrip : Prop :=
  ∀ (i : Instr) (rest : List Byte), i.wellFormed = true → decode i.context (encode i ++ rest) = .ok i rest

/-- 30_encoding.md §2, §5: what the decoder accepts is well formed, belongs to the context it was read in, and is exactly its
own encoding, of its own width. A CTRL word is left out here: its bits 31:1 are ignored. -/
def Obligations.DecodedBytesAreTheEncoding : Prop :=
  ∀ (c : Context) (bs rest : List Byte) (i : Instr), c ≠ .ctrlWrite → decode c bs = .ok i rest →
    i.wellFormed = true ∧ i.context = c ∧ bs = encode i ++ rest ∧ (encode i).length = i.width

/-- Words written out from the encodings and examples of 40_header.md, 41_main_loop.md, 43_lzss10_token.md,
44_lzss11_tokens.md and 10_state.md R34 decode to the instructions they stand for. -/
def Obligations.SampleWordsDecode : Prop :=
  decode .header [0x10, 0x14, 0x00, 0x00] = .ok (.hdr10 20) []
    ∧ decode .header [0x11, 0x0A, 0x00, 0x00] = .ok (.hdr11 10) []
    ∧ decode .header [0x10, 0, 0, 0, 0x00, 0x01, 0x00, 0x00] = .ok (.hdr10x 256) []
    ∧ decode .header [0x11, 0, 0, 0, 0x00, 0x00, 0x00, 0x01] = .ok (.hdr11x 16777216) []
    ∧ decode .header [0x12] = .invalidTag 0x12
    ∧ decode .flagByte [0x08] = .ok (.flag 0x08) []
    ∧ decode .literal [0x61] = .ok (.lit 0x61) []
    ∧ decode .token10 [0xD0, 0x03] = .ok (.ref10 0xD 0x003) []
    ∧ decode .token11 [0x70, 0x01] = .ok (.ref11s 0x7 0x001) []
    ∧ decode .token11 [0x00, 0x20, 0x00] = .ok (.ref11m 0x02 0x000) []
    ∧ decode .token11 [0x10, 0x01, 0xA0, 0x00] = .ok (.ref11l 0x001A 0x000) []
    ∧ decode .ctrlWrite [0x01, 0x00, 0x00, 0x00] = .ok .start []
    ∧ decode .ctrlWrite [0xFE, 0xFF, 0xFF, 0xFF] = .noCommand

/-- 30_encoding.md R77: the high nibble of the first byte selects the tier, and with it the width. -/
def Obligations.HighNibbleSelectsTheTier : Prop :=
  ∀ (b0 b1 b2 b3 : Byte) (rest : List Byte),
    (b0.toNat / 16 = 0 → ∃ l d, decode .token11 (b0 :: b1 :: b2 :: b3 :: rest) = .ok (.ref11m l d) (b3 :: rest))
      ∧ (b0.toNat / 16 = 1 → ∃ l d, decode .token11 (b0 :: b1 :: b2 :: b3 :: rest) = .ok (.ref11l l d) rest)
      ∧ (2 ≤ b0.toNat / 16 →
          ∃ l d, decode .token11 (b0 :: b1 :: b2 :: b3 :: rest) = .ok (.ref11s l d) (b2 :: b3 :: rest))

/-- 30_encoding.md R76, R78, R79, R80: the fields of each token as numbers, the first byte most significant (20_memory.md
R55). The significance of REF11L's length bits is the spec's own decision D15 (log entry 9). -/
def Obligations.TokenFieldsAreFirstByteHigh : Prop :=
  ∀ (b0 b1 b2 b3 : Byte),
    (∃ l d, decode .token10 [b0, b1] = .ok (.ref10 l d) []
        ∧ l.toNat = b0.toNat / 16 ∧ d.toNat = b0.toNat % 16 * 256 + b1.toNat)
      ∧ (2 ≤ b0.toNat / 16 → ∃ l d, decode .token11 [b0, b1] = .ok (.ref11s l d) []
          ∧ l.toNat = b0.toNat / 16 ∧ d.toNat = b0.toNat % 16 * 256 + b1.toNat)
      ∧ (b0.toNat / 16 = 0 → ∃ l d, decode .token11 [b0, b1, b2] = .ok (.ref11m l d) []
          ∧ l.toNat = b0.toNat % 16 * 16 + b1.toNat / 16 ∧ d.toNat = b1.toNat % 16 * 256 + b2.toNat)
      ∧ (b0.toNat / 16 = 1 → ∃ l d, decode .token11 [b0, b1, b2, b3] = .ok (.ref11l l d) []
          ∧ l.toNat = b0.toNat % 16 * 4096 + b1.toNat * 16 + b2.toNat / 16
          ∧ d.toNat = b2.toNat % 16 * 256 + b3.toNat)

/-- 30_encoding.md R86 and 44_lzss11_tokens.md R184, derived there: with the default biases every length 3..65808 with every
distance 1..4096 is the operand pair of exactly one LZSS11 token. -/
def Obligations.DefaultTiersTileTheLengths : Prop :=
  ∀ (len dist : Nat), 3 ≤ len → len ≤ 65808 → 1 ≤ dist → dist ≤ 4096 →
    ∃! i : Instr, i.wellFormed = true ∧ i.context = .token11
      ∧ ∃ l d, tokenOperands Config.default i = some (l, d) ∧ l.toNat = len ∧ d.toNat = dist

/-- 30_encoding.md R87: a token line of a listing assembles, for operands in its range, to bytes that decode to a token with
those operands. The distance range of REF11M and REF11L is the model's reading (log entry 12). -/
def Obligations.ListingTokensDecodeToTheirOperands : Prop :=
  ∀ (c : Config) (len dist : Nat), c.wf = true → 1 ≤ dist → dist ≤ 4096 →
    (3 ≤ len → len ≤ 18 → ∃ bs i l d, assembleItem c (.ref10 len dist) = some bs ∧ decode .token10 bs = .ok i []
        ∧ tokenOperands c i = some (l, d) ∧ l.toNat = len ∧ d.toNat = dist)
      ∧ (3 ≤ len → len ≤ 16 → ∃ bs i l d, assembleItem c (.ref11s len dist) = some bs ∧ decode .token11 bs = .ok i []
        ∧ tokenOperands c i = some (l, d) ∧ l.toNat = len ∧ d.toNat = dist)
      ∧ (c.bias3.toNat ≤ len → len ≤ c.bias3.toNat + 255 →
        ∃ bs i l d, assembleItem c (.ref11m len dist) = some bs ∧ decode .token11 bs = .ok i []
        ∧ tokenOperands c i = some (l, d) ∧ l.toNat = len ∧ d.toNat = dist)
      ∧ (c.bias4.toNat ≤ len → len ≤ c.bias4.toNat + 65535 →
        ∃ bs i l d, assembleItem c (.ref11l len dist) = some bs ∧ decode .token11 bs = .ok i []
        ∧ tokenOperands c i = some (l, d) ∧ l.toNat = len ∧ d.toNat = dist)

/-- 30_encoding.md R88: `HDR v, n` assembles for every 32-bit n to a header of variant v whose `target_len` is n, in the
extended form exactly when n is 0 or does not fit 24 bits. -/
def Obligations.ListingHeadersDecodeToTheirLength : Prop :=
  ∀ (c : Config) (v : Variant) (n : Nat), n ≤ 0xFFFFFFFF →
    ∃ bs, assembleItem c (.hdr v n) = some bs
      ∧ decode .header bs =
        .ok (if n = 0 ∨ 0xFFFFFF < n then extendedHeader v (BitVec.ofNat 32 n) else shortHeader v (BitVec.ofNat 24 n)) []

/-! ### The step -/

/-- 41_main_loop.md R127 (what the state selects is 30_encoding.md R70): with no event waiting, one step is exec of the instruction that the bytes at
`in_pos` decode to in the context the state selects. In COPY(n) that context reads no byte. -/
def Obligations.StepRunsTheDecodedInstruction : Prop :=
  ∀ (s : State) (c : Context) (i : Instr) (rest : List Byte),
    s.events = [] → nextContext s = some c → decode c s.remaining = .ok i rest → step s = exec i s

/-- The model's own rule (log entry 1): an event waiting is taken first, and the event `engine` is the engine's step. -/
def Obligations.EventsAreTakenInOrder : Prop :=
  ∀ (s : State) (rest : List HostEvent),
    (s.events = .engine :: rest → step s = engineStep { s with events := rest })
      ∧ (∀ bytes, s.events = .present bytes :: rest → s.phase.busy = false →
          step s = .next { s with events := rest, port := bytes })
      ∧ (s.events = [] → step s = engineStep s)

/-- 41_main_loop.md R122: cursor n examines `flag[7-n]`, cursor 0 the most significant bit; a 0 selects the literal and a 1
the token of the variant. -/
def Obligations.FlagBitsAreTakenMsbFirst : Prop :=
  ∀ (s : State) (n : Fin 8), s.phase = .bit n →
    (s.flag.toNat / 2 ^ (7 - n.val) % 2 = 0 → nextContext s = some .literal)
      ∧ (s.flag.toNat / 2 ^ (7 - n.val) % 2 = 1 →
          nextContext s = some (match s.variant with | .lzss10 => .token10 | .lzss11 => .token11))

/-- The spec's pseudocode, transcribed read by read from 40_header.md R100, 41_main_loop.md R121 to R125, R127,
42_copy_engine.md R140, 43_lzss10_token.md R160 and 44_lzss11_tokens.md R180, and the engine's step are the same function.
Inputs of 2^64 bytes or more, whose end `in_pos` cannot reach, are left out. -/
def Obligations.EngineStepRefinesThePseudocode : Prop :=
  ∀ s : State, s.inputBytes.length < 2 ^ 64 → engineStep s = pseudoEngineStep s

/-! ### Reset and START -/

/-- 70_reset_and_hazards.md R230: from any state, in the middle of a decode too, the reset event gives the values of
10_state.md R40, every register reads 0, nothing is recorded, the input is unbound, and a host read of any OUT position is a draw.
Of these the model's choices are: that the parameters stay (log entry 6), that the later events stay (log entry 1), and the
counter that a draw reads and advances (log entry 3). -/
def Obligations.ResetEventGivesTheResetValues : Prop :=
  ∀ (s : State) (rest : List HostEvent), s.events = .reset :: rest →
    ∃ t, step s = .next t ∧ t.phase = .idle ∧ t.variant = .lzss10 ∧ t.ext = false ∧ t.hdrValid = false
      ∧ t.targetLen = 0 ∧ t.outLen = 0 ∧ t.inPos = 0 ∧ t.err = .none ∧ t.errInfo = 0 ∧ t.input = none
      ∧ (∀ r, readReg t r = 0) ∧ t.cfg = s.cfg ∧ t.events = rest
      ∧ (∀ pos : BitVec 32, pos.toNat < t.cfg.outCapacity →
          hostOutRead t pos =
            .next { t with draws := t.draws + 1, reply := some (.byte (Config.freeByte t.draws)) })

/-- 10_state.md R40 and 70_reset_and_hazards.md R230: the values the spec states for the state after reset. `flag`, `copy_rem` and
`copy_dist` have no value there (log entry 2) and are not named. -/
def Obligations.ResetStateReadsZero : Prop :=
  State.reset.phase = .idle ∧ State.reset.input = none ∧ statusWord State.reset = 0
    ∧ State.reset.variant = .lzss10 ∧ State.reset.ext = false ∧ State.reset.hdrValid = false
    ∧ State.reset.targetLen = 0 ∧ State.reset.outLen = 0 ∧ State.reset.inPos = 0
    ∧ State.reset.err = .none ∧ State.reset.errInfo = 0 ∧ ∀ r, readReg State.reset r = 0

/-- 41_main_loop.md R120: START is ignored while BUSY; otherwise it binds the stream at the port, clears what the rule lists, and
leaves `flag`, `copy_rem`, `copy_dist` and OUT as they were. It never faults. (`doneSeen` is the model's: log entry 5.) -/
def Obligations.StartBindsTheInputAndClears : Prop :=
  ∀ s : State,
    (s.phase.busy = true → exec .start s = .next s)
      ∧ (s.phase.busy = false →
          exec .start s = .next
            { s with
              input := some s.port, inPos := 0, outLen := 0, targetLen := 0, variant := .lzss10, ext := false,
              hdrValid := false, err := .none, errInfo := 0, phase := .header, doneSeen := false })

/-- 10_state.md R34: a write of a word to CTRL issues START exactly when its bit 0 is 1; bits 31:1 are ignored, a 0 has no effect,
and CTRL reads 0. -/
def Obligations.CtrlWriteIssuesStart : Prop :=
  ∀ (s : State) (rest : List HostEvent) (v : Word),
    (s.cfg.regBase % 4 = 0 → s.events = .regWrite s.cfg.regBase 4 v :: rest →
        (v.toNat % 2 = 1 → step s = exec .start { s with events := rest })
          ∧ (v.toNat % 2 = 0 → step s = .next { s with events := rest }))
      ∧ readReg s .ctrl = 0

/-- 41_main_loop.md R120, "each accepted START begins a fresh, independent decode": two states with the same parameters that start the same stream
observe the same, whatever they held before; OUT's stale bytes included. -/
def Obligations.ObservationDependsOnTheInputOnly : Prop :=
  ∀ (s s' : State) (bytes : List Byte) (k : Nat) (t : State),
    s.events = [] → s'.events = [] → s.cfg = s'.cfg → s.cfg.wf = true →
    run k (s.started bytes) = .next t →
    ∃ t', run k (s'.started bytes) = .next t' ∧ observe t' = observe t ∧ statusWord t' = statusWord t
      ∧ t'.inPos = t.inPos ∧ t'.outLen = t.outLen

/-! ### The host -/

/-- 10_state.md R33: the seven registers at their offsets. A read returns the content the table gives and changes nothing of the
block (`reply` and `doneSeen` stand for what the host has seen), and a write to a read-only one is ignored. -/
def Obligations.RegisterMapOfTheHostWindow : Prop :=
  ∀ (s : State) (rest : List HostEvent) (off : Nat) (content : Word),
    s.cfg.regBase % 4 = 0 →
    (off, content) ∈ [(0x00, 0), (0x04, statusWord s), (0x08, if s.hdrValid then s.targetLen else 0),
      (0x0C, s.outLen), (0x10, BitVec.ofNat 32 (s.inPos.toNat % 4294967296)),
      (0x14, BitVec.ofNat 32 (s.inPos.toNat / 4294967296)), (0x18, s.errInfo)] →
    (s.events = .regRead (s.cfg.regBase + off) 4 :: rest →
        ∃ t, step s = .next t ∧ t.reply = some (.word content)
          ∧ t = { s with events := rest, reply := t.reply, doneSeen := t.doneSeen })
      ∧ (∀ v, off ≠ 0 → s.events = .regWrite (s.cfg.regBase + off) 4 v :: rest →
          step s = .next { s with events := rest })

/-- 10_state.md R35: the fields of STATUS. Every STATE value can be read, the reserved bits read 0, and writes are ignored (the
write is in RegisterMapOfTheHostWindow). -/
def Obligations.StatusWordFields : Prop :=
  (∀ s : State,
      (statusWord s).toNat =
        (match s.phase with
          | .idle => 0
          | .header => 1
          | .needFlag => 1
          | .bit _ => 1
          | .copy _ => 1
          | .done => 2
          | .error => 3)
        + 4 * (match s.err with
          | .none => 0
          | .invalidHeader => 1
          | .unexpectedEof => 2
          | .invalidBackReference => 3)
        + 16 * (if s.hdrValid = true then 1 else 0)
        + 32 * (if s.hdrValid = true ∧ s.variant = .lzss11 then 1 else 0)
        + 64 * (if s.hdrValid = true ∧ s.ext = true then 1 else 0))
    ∧ (∀ s : State, s.Inv → (s.err ≠ .none ↔ (statusWord s).toNat % 4 = 3))
    ∧ (∀ k : Nat, k < 4 → ∃ s : State, s.Inv ∧ (statusWord s).toNat % 4 = k)

/-- 10_state.md R37: an access at offset 0x1C or above, or one that is not 32 bits wide and aligned, is refused. -/
def Obligations.UnmappedAccessIsRefused : Prop :=
  ∀ (s : State) (rest : List HostEvent) (addr size : Nat) (v : Word),
    s.cfg.regBase + 0x1C ≤ addr ∨ size ≠ 4 ∨ addr % 4 ≠ 0 →
    (s.events = .regRead addr size :: rest → step s = .refused .registerUnmapped)
      ∧ (s.events = .regWrite addr size v :: rest → step s = .refused .registerUnmapped)

/-- 20_memory.md R63 (a), (b) with 60_exceptions.md R209 and 70_reset_and_hazards.md R236: once the host has read STATE = DONE, a read
below `target_len` returns the byte that stands there; any other read is a draw, whatever value that is. -/
def Obligations.HostReadsOutOnlyAfterDone : Prop :=
  ∀ (s : State) (rest : List HostEvent) (pos : BitVec 32), pos.toNat < s.cfg.outCapacity →
    s.events = .outRead pos :: rest →
    (∀ b, s.phase = .done → s.doneSeen = true → pos.toNat < s.targetLen.toNat → s.out.read pos.toNat = some b →
        step s = .next { s with events := rest, reply := some (.byte b) })
      ∧ (s.phase ≠ .done ∨ s.doneSeen = false ∨ s.targetLen.toNat ≤ pos.toNat →
        step s = .next
          { s with events := rest, draws := s.draws + 1, reply := some (.byte (Config.freeByte s.draws)) })

/-- 20_memory.md R63 (a), R64: reading STATUS is what orders the engine's writes before the host's reads: it is remembered exactly when
STATE reads DONE. -/
def Obligations.ReadingDoneIsRemembered : Prop :=
  ∀ (s : State) (rest : List HostEvent), s.cfg.regBase % 4 = 0 →
    s.events = .regRead (s.cfg.regBase + 4) 4 :: rest →
    ∃ t, step s = .next t ∧ (t.doneSeen = true ↔ s.doneSeen = true ∨ s.phase = .done)
      ∧ ((statusWord s).toNat % 4 = 2 ↔ s.phase = .done)

/-- 70_reset_and_hazards.md R235: while BUSY a host write of OUT, or a change of the bound input, has no meaning. That presenting
another stream at the port counts as such a change is the model's reading (log entry 15). -/
def Obligations.HostInterferenceWhileBusyIsRefused : Prop :=
  ∀ (s : State) (rest : List HostEvent), s.phase.busy = true →
    (∀ pos b, s.events = .outWrite pos b :: rest → step s = .refused .hostWroteOutWhileBusy)
      ∧ (∀ bytes, s.events = .present bytes :: rest → s.input ≠ some bytes →
          step s = .refused .hostChangedInputWhileBusy)

/-! ### The header -/

/-- 40_header.md R101, R102 with R100: HDR10 and HDR11 complete in phase HEADER for every length that fits OUT. -/
def Obligations.ShortHeaderCompletes : Prop :=
  ∀ (s : State) (len24 : BitVec 24), s.phase = .header → len24 ≠ 0 → len24.toNat ≤ s.cfg.outCapacity →
    (∃ t, exec (.hdr10 len24) s = .next t ∧ t.targetLen.toNat = len24.toNat
        ∧ t = { s with
            inPos := s.inPos + 4, variant := .lzss10, ext := false, hdrValid := true, targetLen := t.targetLen,
            phase := .needFlag })
      ∧ (∃ t, exec (.hdr11 len24) s = .next t ∧ t.targetLen.toNat = len24.toNat
        ∧ t = { s with
            inPos := s.inPos + 4, variant := .lzss11, ext := false, hdrValid := true, targetLen := t.targetLen,
            phase := .needFlag })

/-- 40_header.md R103, R104 with R100 and R106: HDR10X and HDR11X complete in phase HEADER; a length of 0 ends the decode. -/
def Obligations.ExtendedHeaderCompletes : Prop :=
  ∀ (s : State) (len32 : BitVec 32), s.phase = .header → len32.toNat ≤ s.cfg.outCapacity →
    exec (.hdr10x len32) s = .next
        { s with
          inPos := s.inPos + 8, variant := .lzss10, ext := true, hdrValid := true, targetLen := len32,
          phase := if len32.toNat = 0 then .done else .needFlag }
      ∧ exec (.hdr11x len32) s = .next
        { s with
          inPos := s.inPos + 8, variant := .lzss11, ext := true, hdrValid := true, targetLen := len32,
          phase := if len32.toNat = 0 then .done else .needFlag }

/-- 40_header.md R108: a `target_len` above OUT_CAPACITY is refused when the header is accepted; with the default capacity no
header is. -/
def Obligations.HeaderAboveCapacityIsRefused : Prop :=
  (∀ (s : State) (len24 : BitVec 24), s.phase = .header → s.cfg.outCapacity < len24.toNat →
      exec (.hdr10 len24) s = .refused .outCapacityExceeded ∧ exec (.hdr11 len24) s = .refused .outCapacityExceeded)
    ∧ (∀ (s : State) (len32 : BitVec 32), s.phase = .header → s.cfg.outCapacity < len32.toNat →
      exec (.hdr10x len32) s = .refused .outCapacityExceeded ∧ exec (.hdr11x len32) s = .refused .outCapacityExceeded)
    ∧ (∀ s : State, s.cfg.outCapacity = Config.default.outCapacity → engineStep s ≠ .refused .outCapacityExceeded)

/-- 20_memory.md R54, 30_encoding.md R72, R73: from the bytes of a header, the engine's step in HEADER sets `target_len` to the
little-endian 24-bit length, or to the little-endian 32-bit one when the 24 bits are 0. -/
def Obligations.HeaderLengthIsLittleEndian : Prop :=
  ∀ (s : State) (v : Variant) (b1 b2 b3 : Byte) (rest : List Byte),
    s.phase = .header → s.cfg.outCapacity = 2 ^ 32 → s.remaining = tagOf v :: b1 :: b2 :: b3 :: rest →
    (b1.toNat + 256 * b2.toNat + 65536 * b3.toNat ≠ 0 →
        ∃ t, engineStep s = .next t ∧ t.targetLen.toNat = b1.toNat + 256 * b2.toNat + 65536 * b3.toNat
          ∧ t.variant = v ∧ t.ext = false ∧ t.inPos = s.inPos + 4 ∧ t.phase = .needFlag)
      ∧ (∀ (c0 c1 c2 c3 : Byte) (rest' : List Byte),
          b1.toNat + 256 * b2.toNat + 65536 * b3.toNat = 0 → rest = c0 :: c1 :: c2 :: c3 :: rest' →
          ∃ t, engineStep s = .next t
            ∧ t.targetLen.toNat = c0.toNat + 256 * c1.toNat + 65536 * c2.toNat + 16777216 * c3.toNat
            ∧ t.variant = v ∧ t.ext = true ∧ t.inPos = s.inPos + 8
            ∧ (t.phase = .done ↔ t.targetLen = 0))

/-! ### Faults -/

/-- 60_exceptions.md R204: what `raise E(info)` writes and what it keeps, that the engine then takes no step, and that a step
which faults does nothing but read its bytes and raise: the rest of it is not performed. That "no step" is a step to the same
state is the model's choice (log entry 7). -/
def Obligations.FaultEntryWritesThreeRegisters : Prop :=
  (∀ (s : State) (e : ErrKind) (info : BitVec 32),
      s.raise e info = { s with err := e, errInfo := info, phase := .error }
        ∧ stateCode (s.raise e info).phase = 3
        ∧ engineStep (s.raise e info) = .next (s.raise e info))
    ∧ (ErrKind.code .invalidHeader = 1 ∧ ErrKind.code .unexpectedEof = 2 ∧ ErrKind.code .invalidBackReference = 3)
    ∧ (∀ s t : State, engineStep s = .next t → s.phase ≠ .error → t.phase = .error →
        ∃ (k : Nat) (e : ErrKind) (info : BitVec 32), e ≠ .none ∧ t = (s.consume k).raise e info)

/-- 60_exceptions.md R201: an invalid tag is raised right after byte 0, however many bytes follow, and by the header step only. -/
def Obligations.InvalidTagRaisesInvalidHeader : Prop :=
  (∀ (s : State) (tag : Byte) (rest : List Byte), s.phase = .header → s.remaining = tag :: rest →
      tag ≠ 0x10 → tag ≠ 0x11 →
      ∃ t, engineStep s = .next t ∧ t.errInfo.toNat = tag.toNat
        ∧ t = { s with inPos := s.inPos + 1, err := .invalidHeader, errInfo := t.errInfo, phase := .error })
    ∧ (∀ s t : State, engineStep s = .next t → s.err ≠ .invalidHeader → t.err = .invalidHeader → s.phase = .header)

/-- 60_exceptions.md R202, 20_memory.md R51: where the input ends inside the element the state selects, every byte present is
consumed, UnexpectedEof is recorded with info 0, and nothing else changes. -/
def Obligations.InputEndRaisesUnexpectedEof : Prop :=
  ∀ (s : State) (bytes : List Byte), s.input = some bytes → s.inPos.toNat ≤ bytes.length → bytes.length < 2 ^ 64 →
    endsInsideElement s = true →
    ∃ t, engineStep s = .next t ∧ t.inPos.toNat = bytes.length
      ∧ t = { s with inPos := t.inPos, err := .unexpectedEof, errInfo := 0, phase := .error }

/-- 60_exceptions.md R203: a fully read token of either variant and any tier whose distance exceeds `out_len` raises
InvalidBackReference with the distance, and writes no byte. -/
def Obligations.FarDistanceRaisesInvalidBackReference : Prop :=
  ∀ (s : State) (n : Fin 8) (d : BitVec 12), s.phase = .bit n → flagBit s.flag n = true → s.outLen.toNat < d.toNat + 1 →
    (∀ l, s.variant = .lzss10 → exec (.ref10 l d) s = .next
        { s with
          inPos := s.inPos + 2, err := .invalidBackReference, errInfo := BitVec.ofNat 32 (d.toNat + 1), phase := .error })
      ∧ (∀ l, s.variant = .lzss11 → exec (.ref11s l d) s = .next
        { s with
          inPos := s.inPos + 2, err := .invalidBackReference, errInfo := BitVec.ofNat 32 (d.toNat + 1), phase := .error })
      ∧ (∀ l, s.variant = .lzss11 → exec (.ref11m l d) s = .next
        { s with
          inPos := s.inPos + 3, err := .invalidBackReference, errInfo := BitVec.ofNat 32 (d.toNat + 1), phase := .error })
      ∧ (∀ l, s.variant = .lzss11 → exec (.ref11l l d) s = .next
        { s with
          inPos := s.inPos + 4, err := .invalidBackReference, errInfo := BitVec.ofNat 32 (d.toNat + 1), phase := .error })

/-- 60_exceptions.md R205, derived there: a step that faults has no effect on OUT, `out_len`, the header registers or the copy
registers, and no copy step faults. -/
def Obligations.FaultsArePrecise : Prop :=
  ∀ s t : State, engineStep s = .next t → s.phase ≠ .error → t.phase = .error →
    (∀ n, s.phase ≠ .copy n)
      ∧ t = { s with inPos := t.inPos, err := t.err, errInfo := t.errInfo, phase := .error }

/-- 41_main_loop.md R126 and 60_exceptions.md R207: in DONE and ERROR the engine takes no step, and only a write of 1 to
CTRL bit 0 or reset leaves them. START leaves them for a fresh decode, with `err` and `err_info` cleared. That the state
stays is how the model says "no step" (log entry 7). -/
def Obligations.DoneAndErrorAreTerminal : Prop :=
  ∀ s : State, s.phase = .done ∨ s.phase = .error →
    engineStep s = .next s
      ∧ (∀ (e : HostEvent) (t : State), eventStep e s = .next t → t.phase ≠ s.phase →
          e = .reset ∨ ∃ v, e = .regWrite s.cfg.regBase 4 v ∧ v.toNat % 2 = 1)
      ∧ ∃ t, exec .start s = .next t ∧ t.phase = .header ∧ t.err = .none ∧ t.errInfo = 0

/-! ### The main loop and the copy engine -/

/-- 41_main_loop.md R125: where Advance(n) goes, and that it writes the phase only. -/
def Obligations.AdvanceMovesToTheNextBit : Prop :=
  ∀ (s : State) (n : Fin 8),
    s.advance n = { s with phase := phaseOnceHandled n s.outLen.toNat s.targetLen.toNat }
      ∧ (s.outLen ≤ s.targetLen → (s.advance n).phase = .done → s.outLen = s.targetLen)

/-- 41_main_loop.md R121: FLAG completes in NEED_FLAG: it loads `flag` and moves to BIT(0). NEED_FLAG is entered only with
`out_len < target_len`. -/
def Obligations.FlagByteCompletes : Prop :=
  (∀ (s : State) (f : BitVec 8), s.phase = .needFlag →
      exec (.flag f) s = .next { s with inPos := s.inPos + 1, flag := f, phase := .bit 0 })
    ∧ (∀ s : State, s.phase = .needFlag → s.remaining = [] →
      engineStep s = .next { s with err := .unexpectedEof, errInfo := 0, phase := .error })
    ∧ (∀ s t : State, s.Inv → engineStep s = .next t → t.phase = .needFlag → t.outLen < t.targetLen)

/-- 41_main_loop.md R123 with R125 and 20_memory.md R52: LIT completes in BIT(n) with `flag[7-n]` = 0 for every byte: the byte stands at
`out_len`, every other position reads as before, and no register but `out_len`, `in_pos` and `phase` changes. -/
def Obligations.LiteralCompletes : Prop :=
  ∀ (s : State) (n : Fin 8) (v : BitVec 8),
    s.phase = .bit n → flagBit s.flag n = false → s.outLen.toNat < s.cfg.outCapacity → s.outLen.toNat < s.targetLen.toNat →
    ∃ t, exec (.lit v) s = .next t ∧ t.out.read s.outLen.toNat = some v
      ∧ (∀ a, a ≠ s.outLen.toNat → t.out.read a = s.out.read a)
      ∧ t.outLen.toNat = s.outLen.toNat + 1
      ∧ t = { s with
          inPos := s.inPos + 1, out := t.out, outLen := t.outLen,
          phase := phaseOnceHandled n (s.outLen.toNat + 1) s.targetLen.toNat }

/-- 43_lzss10_token.md R160 with 41_main_loop.md R124: REF10 whose distance reaches no further than the output completes by
loading the copy registers with L + 3 and D + 1. -/
def Obligations.Lzss10TokenCompletes : Prop :=
  ∀ (s : State) (n : Fin 8) (l : BitVec 4) (d : BitVec 12),
    s.phase = .bit n → flagBit s.flag n = true → s.variant = .lzss10 → d.toNat + 1 ≤ s.outLen.toNat →
    ∃ t, exec (.ref10 l d) s = .next t ∧ t.copyRem.toNat = l.toNat + 3 ∧ t.copyDist.toNat = d.toNat + 1
      ∧ t = { s with inPos := s.inPos + 2, copyRem := t.copyRem, copyDist := t.copyDist, phase := .copy n }

/-- 44_lzss11_tokens.md R181, R182, R183 with 41_main_loop.md R124: each tier whose distance reaches no further than the output and
whose length is not 0 completes by loading the copy registers, for every BIAS3 and BIAS4 in their bounds. -/
def Obligations.Lzss11TokensComplete : Prop :=
  ∀ (s : State) (n : Fin 8) (d : BitVec 12),
    s.phase = .bit n → flagBit s.flag n = true → s.variant = .lzss11 → s.cfg.wf = true → d.toNat + 1 ≤ s.outLen.toNat →
    (∀ l : BitVec 4, ∃ t, exec (.ref11s l d) s = .next t
        ∧ t.copyRem.toNat = l.toNat + 1 ∧ t.copyDist.toNat = d.toNat + 1
        ∧ t = { s with inPos := s.inPos + 2, copyRem := t.copyRem, copyDist := t.copyDist, phase := .copy n })
      ∧ (∀ l : BitVec 8, l.toNat + s.cfg.bias3.toNat ≠ 0 → ∃ t, exec (.ref11m l d) s = .next t
        ∧ t.copyRem.toNat = l.toNat + s.cfg.bias3.toNat ∧ t.copyDist.toNat = d.toNat + 1
        ∧ t = { s with inPos := s.inPos + 3, copyRem := t.copyRem, copyDist := t.copyDist, phase := .copy n })
      ∧ (∀ l : BitVec 16, l.toNat + s.cfg.bias4.toNat ≠ 0 → ∃ t, exec (.ref11l l d) s = .next t
        ∧ t.copyRem.toNat = l.toNat + s.cfg.bias4.toNat ∧ t.copyDist.toNat = d.toNat + 1
        ∧ t = { s with inPos := s.inPos + 4, copyRem := t.copyRem, copyDist := t.copyDist, phase := .copy n })

/-- 41_main_loop.md R124, the `len = 0` arm (the spec's decision D14): a zero-length token, which only a bias of 0 gives, writes
nothing and moves to the next flag bit. -/
def Obligations.ZeroLengthTokenIsSkipped : Prop :=
  ∀ (s : State) (n : Fin 8) (d : BitVec 12),
    s.phase = .bit n → flagBit s.flag n = true → s.variant = .lzss11 → d.toNat + 1 ≤ s.outLen.toNat →
    (s.cfg.bias3 = 0 → exec (.ref11m 0 d) s = .next
        { s with inPos := s.inPos + 3, phase := phaseOnceHandled n s.outLen.toNat s.targetLen.toNat })
      ∧ (s.cfg.bias4 = 0 → exec (.ref11l 0 d) s = .next
        { s with inPos := s.inPos + 4, phase := phaseOnceHandled n s.outLen.toNat s.targetLen.toNat })

/-- 42_copy_engine.md R140: COPY completes: the byte `copy_dist` behind `out_len` is appended, every other position reads as before,
`copy_rem` counts down, and the copy ends when it is spent or the target is reached (R143). -/
def Obligations.CopyStepCompletes : Prop :=
  ∀ (s : State) (n : Fin 8) (b : Byte),
    s.phase = .copy n → s.outLen.toNat < s.targetLen.toNat → s.outLen.toNat < s.cfg.outCapacity → 1 ≤ s.copyRem.toNat →
    s.copyDist.toNat ≤ s.outLen.toNat → s.out.read (s.outLen.toNat - s.copyDist.toNat) = some b →
    ∃ t, exec .copy s = .next t ∧ t.out.read s.outLen.toNat = some b
      ∧ (∀ a, a ≠ s.outLen.toNat → t.out.read a = s.out.read a)
      ∧ t.outLen.toNat = s.outLen.toNat + 1
      ∧ t = { s with out := t.out, outLen := t.outLen, copyRem := t.copyRem, phase := t.phase }
      ∧ (s.copyRem.toNat = 1 ∨ s.outLen.toNat + 1 = s.targetLen.toNat →
          t.copyRem = 0 ∧ t.phase = phaseOnceHandled n (s.outLen.toNat + 1) s.targetLen.toNat)
      ∧ (s.copyRem.toNat ≠ 1 → s.outLen.toNat + 1 ≠ s.targetLen.toNat →
          t.copyRem.toNat = s.copyRem.toNat - 1 ∧ t.phase = .copy n)

/-- 42_copy_engine.md R144, R145, derived there: the position a copy step reads lies in [out_len - 4096, out_len - 1], was
written in this decode, and is what the step appends. -/
def Obligations.CopyReadsInsideTheWindow : Prop :=
  ∀ (s : State) (n : Fin 8), s.Inv → s.phase = .copy n →
    (copySource s).toNat + s.copyDist.toNat = s.outLen.toNat ∧ (copySource s).toNat < s.outLen.toNat
      ∧ s.outLen.toNat ≤ (copySource s).toNat + 4096
      ∧ ∃ b t, s.out.read (copySource s).toNat = some b ∧ engineStep s = .next t ∧ t.out.read s.outLen.toNat = some b

/-- 42_copy_engine.md R141, with R142 and R143: a whole copy in closed form. Overlap repeats the last `distance` bytes, the
length is clamped to the target, and nothing else changes. -/
def Obligations.CopyHasTheClosedForm : Prop :=
  ∀ (s : State) (n : Fin 8) (p d m : Nat),
    s.Inv → s.events = [] → s.phase = .copy n → p = s.outLen.toNat → d = s.copyDist.toNat →
    m = min s.copyRem.toNat (s.targetLen.toNat - p) →
    ∃ t, run m s = .next t ∧ t.outLen.toNat = p + m
      ∧ (∀ k, k < m → t.out.read (p + k) = s.out.read (p - d + k % d))
      ∧ (∀ a, a < p ∨ p + m ≤ a → t.out.read a = s.out.read a)
      ∧ t = { s with
          out := t.out, outLen := t.outLen, copyRem := 0, phase := phaseOnceHandled n (p + m) s.targetLen.toNat }

/-! ### Frames -/

/-- What the elements that store nothing leave alone (40_header.md R100, 41_main_loop.md R121, R124, R120): only the named
fields may change, so OUT reads as before at every position. The tokens' `err` and `err_info` change on the fault only. -/
def Obligations.ElementsThatStoreNothingKeepTheRest : Prop :=
  ∀ (i : Instr) (s t : State), exec i s = .next t →
    (i.context = .header →
        t = { s with
          inPos := t.inPos, variant := t.variant, ext := t.ext, hdrValid := t.hdrValid, targetLen := t.targetLen,
          phase := t.phase })
      ∧ (i.context = .flagByte → t = { s with inPos := t.inPos, flag := t.flag, phase := t.phase })
      ∧ (i.context = .token10 ∨ i.context = .token11 →
        t = { s with
            inPos := t.inPos, copyRem := t.copyRem, copyDist := t.copyDist, err := t.err, errInfo := t.errInfo,
            phase := t.phase }
          ∧ (t.phase ≠ .error → t.err = s.err ∧ t.errInfo = s.errInfo))
      ∧ (i = .start →
        t = { s with
          input := t.input, inPos := t.inPos, outLen := t.outLen, targetLen := t.targetLen, variant := t.variant,
          ext := t.ext, hdrValid := t.hdrValid, err := t.err, errInfo := t.errInfo, phase := t.phase,
          doneSeen := t.doneSeen })
      ∧ (i.context ≠ .literal → i.context ≠ .copyStep → ∀ a, t.out.read a = s.out.read a)

/-- What LIT and COPY leave alone (41_main_loop.md R123, 42_copy_engine.md R140, R146): they store one byte at `out_len` and every
other position of OUT reads as before. COPY leaves IN and `flag` alone. (The draw counter moves only where COPY reads a position
never written: log entry 4.) -/
def Obligations.StoringStepsKeepTheRest : Prop :=
  ∀ (s t : State),
    (∀ v, exec (.lit v) s = .next t →
        t = { s with inPos := t.inPos, out := t.out, outLen := t.outLen, phase := t.phase }
          ∧ ∀ a, a ≠ s.outLen.toNat → t.out.read a = s.out.read a)
      ∧ (exec .copy s = .next t →
        t = { s with out := t.out, outLen := t.outLen, copyRem := t.copyRem, phase := t.phase, draws := t.draws }
          ∧ ((s.out.read (copySource s).toNat).isSome = true → t.draws = s.draws)
          ∧ ∀ a, a ≠ s.outLen.toNat → t.out.read a = s.out.read a)

/-! ### The whole machine -/

/-- The invariant holds at reset. -/
def Obligations.ResetMeetsTheInvariant : Prop := State.reset.Inv

/-- 10_state.md R39: its clauses, and what they rest on, are kept by every step of either agent, whatever the host does. -/
def Obligations.EveryStepKeepsTheInvariant : Prop :=
  ∀ s t : State, s.Inv → step s = .next t → t.Inv

/-- 41_main_loop.md R127, R129: from a state that meets the invariant the engine's step answers a next state (ERROR among them), and the
only other outcome is the refusal of a header above OUT_CAPACITY. -/
def Obligations.EngineStepAlwaysAnswers : Prop :=
  ∀ s : State, s.Inv →
    (∃ t, engineStep s = .next t) ∨ (s.phase = .header ∧ engineStep s = .refused .outCapacityExceeded)

/-- 10_state.md R27: the input position never decreases within a decode, and advances by at most the 8 bytes of the longest element. -/
def Obligations.InputPositionOnlyAdvances : Prop :=
  ∀ (s t : State) (bytes : List Byte), s.input = some bytes → bytes.length < 2 ^ 64 → engineStep s = .next t →
    s.inPos.toNat ≤ t.inPos.toNat ∧ t.inPos.toNat ≤ s.inPos.toNat + 8

/-- 41_main_loop.md R129, derived there: a decode ends in DONE or ERROR within |input| + target_len + 1 steps, unless its header is
refused for exceeding OUT_CAPACITY. Inputs of 2^64 bytes or more, which `in_pos` cannot count, are left out. It rests on the
stream being whole at START (decision D2, log entry 17). -/
def Obligations.EveryDecodeEndsWithinTheBound : Prop :=
  ∀ (s : State) (bytes : List Byte), s.events = [] → s.cfg.wf = true → bytes.length < 2 ^ 64 →
    (∃ k t, run k (s.started bytes) = .next t ∧ t.ended = true ∧ k ≤ bytes.length + t.targetLen.toNat + 1)
      ∨ run 1 (s.started bytes) = .refused .outCapacityExceeded

/-- 00_scope.md R3, 41_main_loop.md R128: a decode that ends in DONE observes exactly `target_len` bytes, with its `in_pos`,
`variant`, `ext` and `target_len`. -/
def Obligations.SuccessYieldsExactlyTargetLenBytes : Prop :=
  ∀ (s t : State) (k : Nat), s.Inv → s.events = [] → s.phase.busy = true → run k s = .next t → t.phase = .done →
    ∃ bs, observe t = some (.ok bs t.inPos t.variant t.ext t.targetLen) ∧ bs.length = t.targetLen.toNat

/-- 41_main_loop.md R126, 20_memory.md R59: bytes after the last element are not read: a decode that ends in DONE ends the same,
`in_pos` included, whatever follows its stream. -/
def Obligations.TrailingInputIsNeverRead : Prop :=
  ∀ (s t : State) (bytes trailing : List Byte) (k : Nat), s.events = [] → s.cfg.wf = true →
    run k (s.started bytes) = .next t → t.phase = .done →
    run k (s.started (bytes ++ trailing)) = .next { t with input := some (bytes ++ trailing) }

/-- 20_memory.md R65, derived there: what OUT holds never changes which elements are decoded or how: two states that differ in OUT and in
the draw counter only step to states that differ in those only. -/
def Obligations.OutNeverSteersTheDecode : Prop :=
  ∀ (s t : State) (m : Memory) (j : Nat), engineStep s = .next t →
    ∃ t', engineStep { s with out := m, draws := j } = .next t' ∧ t' = { t with out := t'.out, draws := t'.draws }
end

