-- ==== Sys2Proof/Laws/Decode.lean ====
section
/-! SUPPORT. What the decoder can answer in each context, and the bytes of the operands. -/

namespace Sys2Proof

/-- The header is refused by tag in its own context only (30_encoding.md R83). -/
theorem decode_invalidTag {c : Context} {bs : List Byte} {tag : Byte} (h : decode c bs = .invalidTag tag) :
    c = .header ∧ ∃ rest, bs = tag :: rest ∧ tag ≠ tagLzss10 ∧ tag ≠ tagLzss11 := by
  cases c <;> simp only [decode] at h
  · refine ⟨rfl, ?_⟩
    cases bs with
    | nil => simp [decodeHeader] at h
    | cons b rest =>
      have hlen : ∀ v t, decodeLength v rest ≠ .invalidTag t := by
        intro v t ht
        unfold decodeLength at ht
        split at ht
        · split at ht
          · unfold decodeLen32 at ht
            split at ht <;> simp at ht
          · simp at ht
        · simp at ht
      simp only [decodeHeader] at h
      split at h
      · exact absurd h (hlen _ _)
      · split at h
        · exact absurd h (hlen _ _)
        · rename_i h1 h2
          obtain rfl : b = tag := by simpa using h
          exact ⟨rest, rfl, h1, h2⟩
  · unfold decodeFlag at h; split at h <;> simp at h
  · unfold decodeLit at h; split at h <;> simp at h
  · unfold decodeToken10 at h; split at h <;> simp at h
  · unfold decodeToken11 at h
    split at h
    · simp at h
    · unfold decodeTierM decodeTierL decodeTierS at h
      repeat' split at h
      all_goals simp at h
  · simp at h
  · unfold decodeCtrl at h
    repeat' split at h
    all_goals simp at h

/-- Only a CTRL word can be no command (10_state.md R34). -/
theorem decode_noCommand {c : Context} {bs : List Byte} (h : decode c bs = .noCommand) : c = .ctrlWrite := by
  cases c <;> simp only [decode] at h
  · unfold decodeHeader decodeLength decodeLen32 at h
    repeat' split at h
    all_goals simp at h
  · unfold decodeFlag at h; split at h <;> simp at h
  · unfold decodeLit at h; split at h <;> simp at h
  · unfold decodeToken10 at h; split at h <;> simp at h
  · unfold decodeToken11 decodeTierM decodeTierL decodeTierS at h
    repeat' split at h
    all_goals simp at h
  · simp at h
  · rfl

/-- Concatenation as a number: the left part is the more significant one (00_scope.md R9). -/
theorem toNat_append_eq {m n : Nat} (x : BitVec m) (y : BitVec n) : (x ++ y).toNat = x.toNat * 2 ^ n + y.toNat := by
  rw [BitVec.toNat_append, ← Nat.shiftLeft_add_eq_or_of_lt y.isLt, Nat.shiftLeft_eq]

/-- The nibbles of a byte as numbers. -/
theorem toNat_highNibble (b : Byte) : (highNibble b).toNat = b.toNat / 16 := by
  simp [highNibble, BitVec.extractLsb'_toNat, Nat.shiftRight_eq_div_pow]
  omega

theorem toNat_lowNibble (b : Byte) : (lowNibble b).toNat = b.toNat % 16 := by
  simp [lowNibble, BitVec.extractLsb'_toNat]

/-- The length bytes as numbers, first byte least significant (20_memory.md R54). -/
theorem toNat_le24 (b1 b2 b3 : Byte) : (le24 b1 b2 b3).toNat = b1.toNat + 256 * b2.toNat + 65536 * b3.toNat := by
  simp only [le24, toNat_append_eq]
  omega

theorem toNat_le32 (c0 c1 c2 c3 : Byte) :
    (le32 c0 c1 c2 c3).toNat = c0.toNat + 256 * c1.toNat + 65536 * c2.toNat + 16777216 * c3.toNat := by
  simp only [le32, toNat_append_eq]
  omega

end Sys2Proof
end

