-- ==== Sys2Proof/Laws/Memory.lean ====
section
/-! SUPPORT. OUT: a read after a write, a write elsewhere, and that every memory operation keeps the canonical form. -/

namespace Sys2Proof.Machine

@[simp] theorem Memory.read_nil (a : Nat) : Memory.read [] a = none := rfl

theorem Memory.read_cons (k a : Nat) (v : Byte) (m : Memory) :
    Memory.read ((k, v) :: m) a = if k = a then some v else Memory.read m a := rfl

/-- A read of the position just written gives the byte written (20_memory.md R62). -/
@[simp] theorem Memory.read_write_same (m : Memory) (a : Nat) (b : Byte) : (Memory.write m a b).read a = some b := by
  induction m with
  | nil => simp [Memory.write, Memory.read_cons]
  | cons cell m ih =>
    obtain ⟨k, v⟩ := cell
    simp only [Memory.write]
    split
    · simp [Memory.read_cons]
    · split
      · simp [Memory.read_cons]
      · rename_i h
        simp [Memory.read_cons, Ne.symm h, ih]

/-- A write leaves every other position alone. -/
theorem Memory.read_write_other (m : Memory) {a c : Nat} (b : Byte) (h : c ≠ a) :
    (Memory.write m a b).read c = Memory.read m c := by
  induction m with
  | nil => simp [Memory.write, Memory.read_cons, Ne.symm h]
  | cons cell m ih =>
    obtain ⟨k, v⟩ := cell
    simp only [Memory.write]
    split
    · simp [Memory.read_cons, Ne.symm h]
    · split
      · rename_i h2
        simp [Memory.read_cons, Ne.symm h, ← h2]
      · simp [Memory.read_cons, ih]

/-- One lemma for both: what a write does to a read. -/
theorem Memory.read_write (m : Memory) (a c : Nat) (b : Byte) :
    (Memory.write m a b).read c = if c = a then some b else Memory.read m c := by
  split
  · subst_vars; simp
  · exact Memory.read_write_other m b ‹_›

/-- The canonical form is "strictly rising": the first address is below every later one. -/
theorem Memory.wf_iff_pairwise (m : Memory) : m.wf = true ↔ m.Pairwise (fun x y => x.1 < y.1) := by
  induction m with
  | nil => simp [Memory.wf]
  | cons cell m ih =>
    cases m with
    | nil => simp [Memory.wf]
    | cons cell2 m =>
      obtain ⟨a, v⟩ := cell
      obtain ⟨b, w⟩ := cell2
      simp only [Memory.wf, Bool.and_eq_true, decide_eq_true_eq, ih, List.pairwise_cons, List.mem_cons]
      constructor
      · rintro ⟨hab, hb, hm⟩
        exact ⟨fun x hx => hx.elim (fun h => h ▸ hab) (fun h => hab.trans (hb x h)), hb, hm⟩
      · rintro ⟨ha, hb, hm⟩
        exact ⟨ha _ (.inl rfl), hb, hm⟩

/-- The cells after a write are the one written or were there before. -/
theorem Memory.mem_write {m : Memory} {a : Nat} {b : Byte} {x : Host.Cell} (h : x ∈ Memory.write m a b) :
    x = (a, b) ∨ x ∈ m := by
  induction m with
  | nil => simpa [Memory.write] using h
  | cons cell m ih =>
    obtain ⟨k, v⟩ := cell
    simp only [Memory.write] at h
    split at h
    · simpa using h
    · split at h
      · rcases List.mem_cons.1 h with h | h
        · exact .inl h
        · exact .inr (List.mem_cons_of_mem _ h)
      · rcases List.mem_cons.1 h with h | h
        · exact .inr (h ▸ List.mem_cons_self ..)
        · exact (ih h).imp_right (List.mem_cons_of_mem _)

/-- A write keeps the canonical form. -/
theorem Memory.wf_write {m : Memory} (a : Nat) (b : Byte) (h : m.wf = true) : (Memory.write m a b).wf = true := by
  rw [Memory.wf_iff_pairwise] at h ⊢
  induction m with
  | nil => simp [Memory.write]
  | cons cell m ih =>
    obtain ⟨k, v⟩ := cell
    obtain ⟨hk, hm⟩ := List.pairwise_cons.1 h
    simp only [Memory.write]
    split
    · rename_i hak
      refine List.pairwise_cons.2 ⟨fun x hx => ?_, h⟩
      rcases List.mem_cons.1 hx with rfl | hx
      · exact hak
      · exact hak.trans (hk x hx)
    · split
      · rename_i hak
        exact List.pairwise_cons.2 ⟨fun x hx => hak ▸ hk x hx, hm⟩
      · refine List.pairwise_cons.2 ⟨fun x hx => ?_, ih hm⟩
        rcases Memory.mem_write hx with rfl | hx
        · show k < a
          omega
        · exact hk x hx

/-- What is left after forgetting a position was there before. -/
theorem Memory.forget_sublist (m : Memory) (a : Nat) : (Memory.forget m a).Sublist m := by
  induction m with
  | nil => simp [Memory.forget]
  | cons cell m ih =>
    obtain ⟨k, v⟩ := cell
    simp only [Memory.forget]
    split
    · exact List.sublist_cons_self ..
    · exact ih.cons_cons _

/-- A write at an existing position stays inside OUT. -/
theorem Memory.inside_write {m : Memory} {a cap : Nat} (b : Byte) (ha : a < cap) (h : m.inside cap = true) :
    (Memory.write m a b).inside cap = true := by
  simp only [Memory.inside, List.all_eq_true, decide_eq_true_eq] at h ⊢
  intro x hx
  rcases Memory.mem_write hx with rfl | hx
  · exact ha
  · exact h x hx

/-- Forgetting a position stays inside OUT. -/
theorem Memory.inside_forget {m : Memory} {cap : Nat} (a : Nat) (h : m.inside cap = true) :
    (Memory.forget m a).inside cap = true := by
  simp only [Memory.inside, List.all_eq_true, decide_eq_true_eq] at h ⊢
  exact fun x hx => h x ((Memory.forget_sublist m a).subset hx)

/-- Forgetting a position keeps the canonical form. -/
theorem Memory.wf_forget {m : Memory} (a : Nat) (h : m.wf = true) : (Memory.forget m a).wf = true := by
  rw [Memory.wf_iff_pairwise] at h ⊢
  exact h.sublist (Memory.forget_sublist m a)

/-- Forgetting a position leaves every other one alone. -/
theorem Memory.read_forget_other (m : Memory) {a c : Nat} (h : c ≠ a) :
    (Memory.forget m a).read c = Memory.read m c := by
  induction m with
  | nil => rfl
  | cons cell m ih =>
    obtain ⟨k, v⟩ := cell
    simp only [Memory.forget]
    split
    · rename_i hk
      simp [Memory.read_cons, hk, Ne.symm h]
    · simp [Memory.read_cons, ih]

/-- A forgotten position holds nothing. -/
theorem Memory.read_forget_same {m : Memory} (a : Nat) (h : m.wf = true) : (Memory.forget m a).read a = none := by
  rw [Memory.wf_iff_pairwise] at h
  induction m with
  | nil => rfl
  | cons cell m ih =>
    obtain ⟨k, v⟩ := cell
    obtain ⟨hk, hm⟩ := List.pairwise_cons.1 h
    simp only [Memory.forget]
    split
    · rename_i hka
      clear ih h hm
      induction m with
      | nil => rfl
      | cons c2 m ih =>
        obtain ⟨k2, v2⟩ := c2
        have h2 := hk (k2, v2) (List.mem_cons_self ..)
        have hne : k2 ≠ a := by
          simp only at h2
          omega
        simp [Memory.read_cons, hne, ih fun x hx => hk x (List.mem_cons_of_mem _ hx)]
    · rename_i hka
      simp [Memory.read_cons, hka, ih hm]

end Sys2Proof.Machine
end

