-- ==== Sys2Proof/Laws/State.lean ====
section
/-! SUPPORT. One lemma for each field of State and each update of Machine/Ops.lean, so that no proof unfolds a record
update. -/

namespace Sys2Proof.Machine

variable (s : State)

/-! ### consume: `in_pos` only (10_state.md R27) -/

@[simp] theorem State.consume_phase (k : Nat) : (s.consume k).phase = s.phase := rfl
@[simp] theorem State.consume_variant (k : Nat) : (s.consume k).variant = s.variant := rfl
@[simp] theorem State.consume_ext (k : Nat) : (s.consume k).ext = s.ext := rfl
@[simp] theorem State.consume_hdrValid (k : Nat) : (s.consume k).hdrValid = s.hdrValid := rfl
@[simp] theorem State.consume_targetLen (k : Nat) : (s.consume k).targetLen = s.targetLen := rfl
@[simp] theorem State.consume_flag (k : Nat) : (s.consume k).flag = s.flag := rfl
@[simp] theorem State.consume_outLen (k : Nat) : (s.consume k).outLen = s.outLen := rfl
@[simp] theorem State.consume_inPos (k : Nat) : (s.consume k).inPos = s.inPos + BitVec.ofNat 64 k := rfl
@[simp] theorem State.consume_copyRem (k : Nat) : (s.consume k).copyRem = s.copyRem := rfl
@[simp] theorem State.consume_copyDist (k : Nat) : (s.consume k).copyDist = s.copyDist := rfl
@[simp] theorem State.consume_err (k : Nat) : (s.consume k).err = s.err := rfl
@[simp] theorem State.consume_errInfo (k : Nat) : (s.consume k).errInfo = s.errInfo := rfl
@[simp] theorem State.consume_input (k : Nat) : (s.consume k).input = s.input := rfl
@[simp] theorem State.consume_out (k : Nat) : (s.consume k).out = s.out := rfl
@[simp] theorem State.consume_port (k : Nat) : (s.consume k).port = s.port := rfl
@[simp] theorem State.consume_events (k : Nat) : (s.consume k).events = s.events := rfl
@[simp] theorem State.consume_reply (k : Nat) : (s.consume k).reply = s.reply := rfl
@[simp] theorem State.consume_doneSeen (k : Nat) : (s.consume k).doneSeen = s.doneSeen := rfl
@[simp] theorem State.consume_draws (k : Nat) : (s.consume k).draws = s.draws := rfl
@[simp] theorem State.consume_cfg (k : Nat) : (s.consume k).cfg = s.cfg := rfl

/-! ### raise: `err`, `err_info`, `phase` only (60_exceptions.md R204) -/

@[simp] theorem State.raise_phase (e : ErrKind) (info : BitVec 32) : (s.raise e info).phase = .error := rfl
@[simp] theorem State.raise_variant (e : ErrKind) (info : BitVec 32) : (s.raise e info).variant = s.variant := rfl
@[simp] theorem State.raise_ext (e : ErrKind) (info : BitVec 32) : (s.raise e info).ext = s.ext := rfl
@[simp] theorem State.raise_hdrValid (e : ErrKind) (info : BitVec 32) : (s.raise e info).hdrValid = s.hdrValid := rfl
@[simp] theorem State.raise_targetLen (e : ErrKind) (info : BitVec 32) : (s.raise e info).targetLen = s.targetLen := rfl
@[simp] theorem State.raise_flag (e : ErrKind) (info : BitVec 32) : (s.raise e info).flag = s.flag := rfl
@[simp] theorem State.raise_outLen (e : ErrKind) (info : BitVec 32) : (s.raise e info).outLen = s.outLen := rfl
@[simp] theorem State.raise_inPos (e : ErrKind) (info : BitVec 32) : (s.raise e info).inPos = s.inPos := rfl
@[simp] theorem State.raise_copyRem (e : ErrKind) (info : BitVec 32) : (s.raise e info).copyRem = s.copyRem := rfl
@[simp] theorem State.raise_copyDist (e : ErrKind) (info : BitVec 32) : (s.raise e info).copyDist = s.copyDist := rfl
@[simp] theorem State.raise_err (e : ErrKind) (info : BitVec 32) : (s.raise e info).err = e := rfl
@[simp] theorem State.raise_errInfo (e : ErrKind) (info : BitVec 32) : (s.raise e info).errInfo = info := rfl
@[simp] theorem State.raise_input (e : ErrKind) (info : BitVec 32) : (s.raise e info).input = s.input := rfl
@[simp] theorem State.raise_out (e : ErrKind) (info : BitVec 32) : (s.raise e info).out = s.out := rfl
@[simp] theorem State.raise_port (e : ErrKind) (info : BitVec 32) : (s.raise e info).port = s.port := rfl
@[simp] theorem State.raise_events (e : ErrKind) (info : BitVec 32) : (s.raise e info).events = s.events := rfl
@[simp] theorem State.raise_reply (e : ErrKind) (info : BitVec 32) : (s.raise e info).reply = s.reply := rfl
@[simp] theorem State.raise_doneSeen (e : ErrKind) (info : BitVec 32) : (s.raise e info).doneSeen = s.doneSeen := rfl
@[simp] theorem State.raise_draws (e : ErrKind) (info : BitVec 32) : (s.raise e info).draws = s.draws := rfl
@[simp] theorem State.raise_cfg (e : ErrKind) (info : BitVec 32) : (s.raise e info).cfg = s.cfg := rfl

/-! ### started: an accepted START (41_main_loop.md R120) -/

@[simp] theorem State.started_phase (bytes : List Byte) : (s.started bytes).phase = .header := rfl
@[simp] theorem State.started_variant (bytes : List Byte) : (s.started bytes).variant = .lzss10 := rfl
@[simp] theorem State.started_ext (bytes : List Byte) : (s.started bytes).ext = false := rfl
@[simp] theorem State.started_hdrValid (bytes : List Byte) : (s.started bytes).hdrValid = false := rfl
@[simp] theorem State.started_targetLen (bytes : List Byte) : (s.started bytes).targetLen = 0 := rfl
@[simp] theorem State.started_flag (bytes : List Byte) : (s.started bytes).flag = s.flag := rfl
@[simp] theorem State.started_outLen (bytes : List Byte) : (s.started bytes).outLen = 0 := rfl
@[simp] theorem State.started_inPos (bytes : List Byte) : (s.started bytes).inPos = 0 := rfl
@[simp] theorem State.started_copyRem (bytes : List Byte) : (s.started bytes).copyRem = s.copyRem := rfl
@[simp] theorem State.started_copyDist (bytes : List Byte) : (s.started bytes).copyDist = s.copyDist := rfl
@[simp] theorem State.started_err (bytes : List Byte) : (s.started bytes).err = .none := rfl
@[simp] theorem State.started_errInfo (bytes : List Byte) : (s.started bytes).errInfo = 0 := rfl
@[simp] theorem State.started_input (bytes : List Byte) : (s.started bytes).input = some bytes := rfl
@[simp] theorem State.started_out (bytes : List Byte) : (s.started bytes).out = s.out := rfl
@[simp] theorem State.started_port (bytes : List Byte) : (s.started bytes).port = s.port := rfl
@[simp] theorem State.started_events (bytes : List Byte) : (s.started bytes).events = s.events := rfl
@[simp] theorem State.started_reply (bytes : List Byte) : (s.started bytes).reply = s.reply := rfl
@[simp] theorem State.started_doneSeen (bytes : List Byte) : (s.started bytes).doneSeen = false := rfl
@[simp] theorem State.started_draws (bytes : List Byte) : (s.started bytes).draws = s.draws := rfl
@[simp] theorem State.started_cfg (bytes : List Byte) : (s.started bytes).cfg = s.cfg := rfl

/-! ### appended: OUT and `out_len` only (20_memory.md R52) -/

@[simp] theorem State.appended_phase (v : Byte) : (s.appended v).phase = s.phase := rfl
@[simp] theorem State.appended_variant (v : Byte) : (s.appended v).variant = s.variant := rfl
@[simp] theorem State.appended_ext (v : Byte) : (s.appended v).ext = s.ext := rfl
@[simp] theorem State.appended_hdrValid (v : Byte) : (s.appended v).hdrValid = s.hdrValid := rfl
@[simp] theorem State.appended_targetLen (v : Byte) : (s.appended v).targetLen = s.targetLen := rfl
@[simp] theorem State.appended_flag (v : Byte) : (s.appended v).flag = s.flag := rfl
@[simp] theorem State.appended_outLen (v : Byte) : (s.appended v).outLen = s.outLen + 1 := rfl
@[simp] theorem State.appended_inPos (v : Byte) : (s.appended v).inPos = s.inPos := rfl
@[simp] theorem State.appended_copyRem (v : Byte) : (s.appended v).copyRem = s.copyRem := rfl
@[simp] theorem State.appended_copyDist (v : Byte) : (s.appended v).copyDist = s.copyDist := rfl
@[simp] theorem State.appended_err (v : Byte) : (s.appended v).err = s.err := rfl
@[simp] theorem State.appended_errInfo (v : Byte) : (s.appended v).errInfo = s.errInfo := rfl
@[simp] theorem State.appended_input (v : Byte) : (s.appended v).input = s.input := rfl
@[simp] theorem State.appended_out (v : Byte) : (s.appended v).out = s.out.write s.outLen.toNat v := rfl
@[simp] theorem State.appended_port (v : Byte) : (s.appended v).port = s.port := rfl
@[simp] theorem State.appended_events (v : Byte) : (s.appended v).events = s.events := rfl
@[simp] theorem State.appended_reply (v : Byte) : (s.appended v).reply = s.reply := rfl
@[simp] theorem State.appended_doneSeen (v : Byte) : (s.appended v).doneSeen = s.doneSeen := rfl
@[simp] theorem State.appended_draws (v : Byte) : (s.appended v).draws = s.draws := rfl
@[simp] theorem State.appended_cfg (v : Byte) : (s.appended v).cfg = s.cfg := rfl

/-! ### drew: the draw counter only -/

@[simp] theorem State.drew_phase : (s.drew).phase = s.phase := rfl
@[simp] theorem State.drew_variant : (s.drew).variant = s.variant := rfl
@[simp] theorem State.drew_ext : (s.drew).ext = s.ext := rfl
@[simp] theorem State.drew_hdrValid : (s.drew).hdrValid = s.hdrValid := rfl
@[simp] theorem State.drew_targetLen : (s.drew).targetLen = s.targetLen := rfl
@[simp] theorem State.drew_flag : (s.drew).flag = s.flag := rfl
@[simp] theorem State.drew_outLen : (s.drew).outLen = s.outLen := rfl
@[simp] theorem State.drew_inPos : (s.drew).inPos = s.inPos := rfl
@[simp] theorem State.drew_copyRem : (s.drew).copyRem = s.copyRem := rfl
@[simp] theorem State.drew_copyDist : (s.drew).copyDist = s.copyDist := rfl
@[simp] theorem State.drew_err : (s.drew).err = s.err := rfl
@[simp] theorem State.drew_errInfo : (s.drew).errInfo = s.errInfo := rfl
@[simp] theorem State.drew_input : (s.drew).input = s.input := rfl
@[simp] theorem State.drew_out : (s.drew).out = s.out := rfl
@[simp] theorem State.drew_port : (s.drew).port = s.port := rfl
@[simp] theorem State.drew_events : (s.drew).events = s.events := rfl
@[simp] theorem State.drew_reply : (s.drew).reply = s.reply := rfl
@[simp] theorem State.drew_doneSeen : (s.drew).doneSeen = s.doneSeen := rfl
@[simp] theorem State.drew_draws : (s.drew).draws = s.draws + 1 := rfl
@[simp] theorem State.drew_cfg : (s.drew).cfg = s.cfg := rfl

/-! ### advance: `phase` only (41_main_loop.md R125) -/

@[simp] theorem State.advance_phase (n : Fin 8) : (s.advance n).phase = s.phaseAfter n := rfl
@[simp] theorem State.advance_variant (n : Fin 8) : (s.advance n).variant = s.variant := rfl
@[simp] theorem State.advance_ext (n : Fin 8) : (s.advance n).ext = s.ext := rfl
@[simp] theorem State.advance_hdrValid (n : Fin 8) : (s.advance n).hdrValid = s.hdrValid := rfl
@[simp] theorem State.advance_targetLen (n : Fin 8) : (s.advance n).targetLen = s.targetLen := rfl
@[simp] theorem State.advance_flag (n : Fin 8) : (s.advance n).flag = s.flag := rfl
@[simp] theorem State.advance_outLen (n : Fin 8) : (s.advance n).outLen = s.outLen := rfl
@[simp] theorem State.advance_inPos (n : Fin 8) : (s.advance n).inPos = s.inPos := rfl
@[simp] theorem State.advance_copyRem (n : Fin 8) : (s.advance n).copyRem = s.copyRem := rfl
@[simp] theorem State.advance_copyDist (n : Fin 8) : (s.advance n).copyDist = s.copyDist := rfl
@[simp] theorem State.advance_err (n : Fin 8) : (s.advance n).err = s.err := rfl
@[simp] theorem State.advance_errInfo (n : Fin 8) : (s.advance n).errInfo = s.errInfo := rfl
@[simp] theorem State.advance_input (n : Fin 8) : (s.advance n).input = s.input := rfl
@[simp] theorem State.advance_out (n : Fin 8) : (s.advance n).out = s.out := rfl
@[simp] theorem State.advance_port (n : Fin 8) : (s.advance n).port = s.port := rfl
@[simp] theorem State.advance_events (n : Fin 8) : (s.advance n).events = s.events := rfl
@[simp] theorem State.advance_reply (n : Fin 8) : (s.advance n).reply = s.reply := rfl
@[simp] theorem State.advance_doneSeen (n : Fin 8) : (s.advance n).doneSeen = s.doneSeen := rfl
@[simp] theorem State.advance_draws (n : Fin 8) : (s.advance n).draws = s.draws := rfl
@[simp] theorem State.advance_cfg (n : Fin 8) : (s.advance n).cfg = s.cfg := rfl

/-! ### loadCopy: the copy registers and `phase` (41_main_loop.md R124) -/

@[simp] theorem State.loadCopy_phase (n : Fin 8) (len : BitVec 17) (dist : BitVec 13) : (s.loadCopy n len dist).phase = .copy n := rfl
@[simp] theorem State.loadCopy_variant (n : Fin 8) (len : BitVec 17) (dist : BitVec 13) : (s.loadCopy n len dist).variant = s.variant := rfl
@[simp] theorem State.loadCopy_ext (n : Fin 8) (len : BitVec 17) (dist : BitVec 13) : (s.loadCopy n len dist).ext = s.ext := rfl
@[simp] theorem State.loadCopy_hdrValid (n : Fin 8) (len : BitVec 17) (dist : BitVec 13) : (s.loadCopy n len dist).hdrValid = s.hdrValid := rfl
@[simp] theorem State.loadCopy_targetLen (n : Fin 8) (len : BitVec 17) (dist : BitVec 13) : (s.loadCopy n len dist).targetLen = s.targetLen := rfl
@[simp] theorem State.loadCopy_flag (n : Fin 8) (len : BitVec 17) (dist : BitVec 13) : (s.loadCopy n len dist).flag = s.flag := rfl
@[simp] theorem State.loadCopy_outLen (n : Fin 8) (len : BitVec 17) (dist : BitVec 13) : (s.loadCopy n len dist).outLen = s.outLen := rfl
@[simp] theorem State.loadCopy_inPos (n : Fin 8) (len : BitVec 17) (dist : BitVec 13) : (s.loadCopy n len dist).inPos = s.inPos := rfl
@[simp] theorem State.loadCopy_copyRem (n : Fin 8) (len : BitVec 17) (dist : BitVec 13) : (s.loadCopy n len dist).copyRem = len := rfl
@[simp] theorem State.loadCopy_copyDist (n : Fin 8) (len : BitVec 17) (dist : BitVec 13) : (s.loadCopy n len dist).copyDist = dist := rfl
@[simp] theorem State.loadCopy_err (n : Fin 8) (len : BitVec 17) (dist : BitVec 13) : (s.loadCopy n len dist).err = s.err := rfl
@[simp] theorem State.loadCopy_errInfo (n : Fin 8) (len : BitVec 17) (dist : BitVec 13) : (s.loadCopy n len dist).errInfo = s.errInfo := rfl
@[simp] theorem State.loadCopy_input (n : Fin 8) (len : BitVec 17) (dist : BitVec 13) : (s.loadCopy n len dist).input = s.input := rfl
@[simp] theorem State.loadCopy_out (n : Fin 8) (len : BitVec 17) (dist : BitVec 13) : (s.loadCopy n len dist).out = s.out := rfl
@[simp] theorem State.loadCopy_port (n : Fin 8) (len : BitVec 17) (dist : BitVec 13) : (s.loadCopy n len dist).port = s.port := rfl
@[simp] theorem State.loadCopy_events (n : Fin 8) (len : BitVec 17) (dist : BitVec 13) : (s.loadCopy n len dist).events = s.events := rfl
@[simp] theorem State.loadCopy_reply (n : Fin 8) (len : BitVec 17) (dist : BitVec 13) : (s.loadCopy n len dist).reply = s.reply := rfl
@[simp] theorem State.loadCopy_doneSeen (n : Fin 8) (len : BitVec 17) (dist : BitVec 13) : (s.loadCopy n len dist).doneSeen = s.doneSeen := rfl
@[simp] theorem State.loadCopy_draws (n : Fin 8) (len : BitVec 17) (dist : BitVec 13) : (s.loadCopy n len dist).draws = s.draws := rfl
@[simp] theorem State.loadCopy_cfg (n : Fin 8) (len : BitVec 17) (dist : BitVec 13) : (s.loadCopy n len dist).cfg = s.cfg := rfl

/-! ### headerAccepted: the header's writes (40_header.md R100) -/

@[simp] theorem State.headerAccepted_phase (v : Variant) (e : Bool) (t : BitVec 32) : (s.headerAccepted v e t).phase = if t = 0 then .done else .needFlag := rfl
@[simp] theorem State.headerAccepted_variant (v : Variant) (e : Bool) (t : BitVec 32) : (s.headerAccepted v e t).variant = v := rfl
@[simp] theorem State.headerAccepted_ext (v : Variant) (e : Bool) (t : BitVec 32) : (s.headerAccepted v e t).ext = e := rfl
@[simp] theorem State.headerAccepted_hdrValid (v : Variant) (e : Bool) (t : BitVec 32) : (s.headerAccepted v e t).hdrValid = true := rfl
@[simp] theorem State.headerAccepted_targetLen (v : Variant) (e : Bool) (t : BitVec 32) : (s.headerAccepted v e t).targetLen = t := rfl
@[simp] theorem State.headerAccepted_flag (v : Variant) (e : Bool) (t : BitVec 32) : (s.headerAccepted v e t).flag = s.flag := rfl
@[simp] theorem State.headerAccepted_outLen (v : Variant) (e : Bool) (t : BitVec 32) : (s.headerAccepted v e t).outLen = s.outLen := rfl
@[simp] theorem State.headerAccepted_inPos (v : Variant) (e : Bool) (t : BitVec 32) : (s.headerAccepted v e t).inPos = s.inPos := rfl
@[simp] theorem State.headerAccepted_copyRem (v : Variant) (e : Bool) (t : BitVec 32) : (s.headerAccepted v e t).copyRem = s.copyRem := rfl
@[simp] theorem State.headerAccepted_copyDist (v : Variant) (e : Bool) (t : BitVec 32) : (s.headerAccepted v e t).copyDist = s.copyDist := rfl
@[simp] theorem State.headerAccepted_err (v : Variant) (e : Bool) (t : BitVec 32) : (s.headerAccepted v e t).err = s.err := rfl
@[simp] theorem State.headerAccepted_errInfo (v : Variant) (e : Bool) (t : BitVec 32) : (s.headerAccepted v e t).errInfo = s.errInfo := rfl
@[simp] theorem State.headerAccepted_input (v : Variant) (e : Bool) (t : BitVec 32) : (s.headerAccepted v e t).input = s.input := rfl
@[simp] theorem State.headerAccepted_out (v : Variant) (e : Bool) (t : BitVec 32) : (s.headerAccepted v e t).out = s.out := rfl
@[simp] theorem State.headerAccepted_port (v : Variant) (e : Bool) (t : BitVec 32) : (s.headerAccepted v e t).port = s.port := rfl
@[simp] theorem State.headerAccepted_events (v : Variant) (e : Bool) (t : BitVec 32) : (s.headerAccepted v e t).events = s.events := rfl
@[simp] theorem State.headerAccepted_reply (v : Variant) (e : Bool) (t : BitVec 32) : (s.headerAccepted v e t).reply = s.reply := rfl
@[simp] theorem State.headerAccepted_doneSeen (v : Variant) (e : Bool) (t : BitVec 32) : (s.headerAccepted v e t).doneSeen = s.doneSeen := rfl
@[simp] theorem State.headerAccepted_draws (v : Variant) (e : Bool) (t : BitVec 32) : (s.headerAccepted v e t).draws = s.draws := rfl
@[simp] theorem State.headerAccepted_cfg (v : Variant) (e : Bool) (t : BitVec 32) : (s.headerAccepted v e t).cfg = s.cfg := rfl

end Sys2Proof.Machine
end

