-- ==== Sys2Proof/Laws/Ops.lean ====
section
/-! SUPPORT. One lemma for each shared operation that says once everything it can do. -/

namespace Sys2Proof.Machine

/-! ### OutAppend and Advance -/

/-- OutAppend goes on exactly at a position that exists (20_memory.md R52). -/
theorem State.outAppend_next {s t : State} {v : Byte} {k : State → Host.Outcome State Fault Refusal} :
    s.outAppend v k = .next t ↔ s.outLen.toNat < s.cfg.outCapacity ∧ k (s.appended v) = .next t := by
  unfold State.outAppend
  split <;> simp [*]

theorem State.outAppend_of_lt {s : State} (h : s.outLen.toNat < s.cfg.outCapacity) (v : Byte)
    (k : State → Host.Outcome State Fault Refusal) : s.outAppend v k = k (s.appended v) := by
  simp [State.outAppend, h]

/-- Advance at the target ends the decode. -/
theorem State.phaseAfter_done {s : State} (h : s.targetLen ≤ s.outLen) (n : Fin 8) : s.phaseAfter n = .done := by
  simp [State.phaseAfter, h]

/-- Advance below the target goes on with the next bit, or with a new flag byte. -/
theorem State.phaseAfter_lt {s : State} (h : s.outLen < s.targetLen) (n : Fin 8) :
    s.phaseAfter n = if n = 7 then .needFlag else .bit (n + 1) := by
  have : ¬ s.targetLen ≤ s.outLen := by simpa using h
  simp [State.phaseAfter, this]

/-- Advance never starts a header or a copy and never faults. -/
theorem State.phaseAfter_cases (s : State) (n : Fin 8) :
    (s.phaseAfter n = .done ∧ s.targetLen ≤ s.outLen)
      ∨ ((s.phaseAfter n = .needFlag ∨ ∃ m, s.phaseAfter n = .bit m) ∧ s.outLen < s.targetLen) := by
  by_cases h : s.targetLen ≤ s.outLen
  · exact .inl ⟨State.phaseAfter_done h n, h⟩
  · have h' : s.outLen < s.targetLen := by simpa using h
    refine .inr ⟨?_, h'⟩
    rw [State.phaseAfter_lt h']
    split
    · exact .inl rfl
    · exact .inr ⟨_, rfl⟩

/-! ### MemRead -/

theorem State.outByte_of_read {s : State} {a : Nat} {b : Byte} (h : s.out.read a = some b) : s.outByte a = b := by
  simp [State.outByte, h]

theorem State.afterOutRead_of_read {s : State} {a : Nat} {b : Byte} (h : s.out.read a = some b) :
    s.afterOutRead a = s := by
  simp [State.afterOutRead, h]

/-- MemRead changes the draw counter at most. -/
theorem State.afterOutRead_eq (s : State) (a : Nat) :
    s.afterOutRead a = { s with draws := (s.afterOutRead a).draws } := by
  unfold State.afterOutRead
  split <;> rfl

/-! ### The meanings, by what they answer next -/

/-- A header step: what it needs and what it leaves (40_header.md R100, R108). -/
theorem headerStep_next {v : Variant} {e : Bool} {n : BitVec 32} {w : Nat} {s t : State} :
    headerStep v e n w s = .next t ↔
      s.phase = .header ∧ n.toNat ≤ s.cfg.outCapacity ∧ t = (s.consume w).headerAccepted v e n := by
  unfold headerStep acceptHeader
  split
  · rename_i h
    simp only [h, State.consume_cfg, true_and]
    by_cases hc : s.cfg.outCapacity < n.toNat
    · simp [hc]
    · simp only [hc, if_false, Host.Outcome.next.injEq]
      exact ⟨fun h => ⟨by omega, h.symm⟩, fun h => h.2.symm⟩
  · rename_i h
    simp only [reduceCtorEq, false_iff, not_and]
    exact fun h' => absurd h' h

/-- FLAG (41_main_loop.md R121). -/
theorem execFlag_next {f : BitVec 8} {s t : State} :
    execFlag f s = .next t ↔ s.phase = .needFlag ∧ t = { s.consume 1 with flag := f, phase := .bit 0 } := by
  unfold execFlag
  split
  · rename_i h
    simp only [h, true_and, Host.Outcome.next.injEq]
    exact eq_comm
  · rename_i h
    simp only [reduceCtorEq, false_iff, not_and]
    exact fun h' => absurd h' h

/-- LIT (41_main_loop.md R123). -/
theorem execLit_next {v : BitVec 8} {s t : State} :
    execLit v s = .next t ↔
      ∃ n, s.phase = .bit n ∧ flagBit s.flag n = false ∧ s.outLen.toNat < s.cfg.outCapacity
        ∧ t = ((s.consume 1).appended v).advance n := by
  unfold execLit
  split
  · rename_i n h
    split
    · rename_i hf
      rw [State.outAppend_next, Host.Outcome.next.injEq]
      constructor
      · exact fun ⟨h1, h2⟩ => ⟨n, h, hf, h1, h2.symm⟩
      · rintro ⟨m, hm, -, h1, h2⟩
        obtain rfl : n = m := by simpa [h] using hm
        exact ⟨h1, h2.symm⟩
    · rename_i hf
      simp [h, hf]
  · rename_i h
    simp only [reduceCtorEq, false_iff, not_exists, not_and]
    exact fun n h' => absurd h' (h n)

/-- What the back-reference step can do (41_main_loop.md R124). -/
theorem backRef_cases (n : Fin 8) (len : BitVec 17) (dist : BitVec 13) (s : State) :
    (s.outLen < wideDistance dist ∧ backRef n len dist s = s.raise .invalidBackReference (wideDistance dist))
      ∨ (wideDistance dist ≤ s.outLen ∧ len = 0 ∧ backRef n len dist s = s.advance n)
      ∨ (wideDistance dist ≤ s.outLen ∧ len ≠ 0 ∧ backRef n len dist s = s.loadCopy n len dist) := by
  unfold backRef
  split
  · exact .inl ⟨‹_›, rfl⟩
  · have hle : wideDistance dist ≤ s.outLen := by simpa using ‹¬ s.outLen < wideDistance dist›
    split
    · exact .inr (.inl ⟨hle, ‹_›, rfl⟩)
    · exact .inr (.inr ⟨hle, ‹_›, rfl⟩)

/-- A token step (30_encoding.md R70, 41_main_loop.md R124). -/
theorem tokenStep_next {v : Variant} {len : BitVec 17} {dist : BitVec 13} {w : Nat} {s t : State} :
    tokenStep v len dist w s = .next t ↔
      ∃ n, s.phase = .bit n ∧ flagBit s.flag n = true ∧ s.variant = v ∧ t = backRef n len dist (s.consume w) := by
  unfold tokenStep
  split
  · rename_i n h
    split
    · rename_i hf
      rw [Host.Outcome.next.injEq]
      constructor
      · exact fun h1 => ⟨n, h, hf.1, hf.2, h1.symm⟩
      · rintro ⟨m, hm, -, -, h1⟩
        obtain rfl : n = m := by simpa [h] using hm
        exact h1.symm
    · rename_i hf
      simp only [reduceCtorEq, h, Phase.bit.injEq, false_iff, not_exists, not_and]
      rintro _ rfl h1 h2
      exact absurd ⟨h1, h2⟩ hf
  · rename_i h
    simp only [reduceCtorEq, false_iff, not_exists, not_and]
    exact fun n h' => absurd h' (h n)

/-- COPY (42_copy_engine.md R140). -/
theorem execCopy_next {s t : State} :
    execCopy s = .next t ↔
      ∃ n, s.phase = .copy n ∧ s.outLen.toNat < s.cfg.outCapacity
        ∧ t = copyTail n
            ((s.afterOutRead (copySource s).toNat).appended (s.outByte (copySource s).toNat)) := by
  unfold execCopy
  split
  · rename_i n h
    have h1 : (s.afterOutRead (copySource s).toNat).outLen = s.outLen := by
      rw [State.afterOutRead_eq]
    have h2 : (s.afterOutRead (copySource s).toNat).cfg = s.cfg := by
      rw [State.afterOutRead_eq]
    rw [State.outAppend_next, Host.Outcome.next.injEq, h1, h2]
    constructor
    · exact fun ⟨h3, h4⟩ => ⟨n, h, h3, h4.symm⟩
    · rintro ⟨m, hm, h3, h4⟩
      obtain rfl : n = m := by simpa [h] using hm
      exact ⟨h3, h4.symm⟩
  · rename_i h
    simp only [reduceCtorEq, false_iff, not_exists, not_and]
    exact fun n h' => absurd h' (h n)

/-- The end of a copy step, or its going on (42_copy_engine.md R140, R143). -/
theorem copyTail_cases (n : Fin 8) (s : State) :
    ((s.copyRem - 1 = 0 ∨ s.outLen = s.targetLen)
        ∧ copyTail n s = { s with copyRem := 0, phase := s.phaseAfter n })
      ∨ (s.copyRem - 1 ≠ 0 ∧ s.outLen ≠ s.targetLen ∧ copyTail n s = { s with copyRem := s.copyRem - 1 }) := by
  unfold copyTail
  split
  · exact .inl ⟨‹_›, rfl⟩
  · rename_i h
    exact .inr ⟨fun h1 => h (.inl h1), fun h2 => h (.inr h2), rfl⟩

/-! ### Operands as numbers (30_encoding.md R81) -/

@[simp] theorem toNat_distanceOf (d : BitVec 12) : (distanceOf d).toNat = d.toNat + 1 := by
  have := d.isLt
  simp [distanceOf, BitVec.toNat_add]
  omega

@[simp] theorem toNat_wideDistance (d : BitVec 13) : (wideDistance d).toNat = d.toNat := by
  have := d.isLt
  simp [wideDistance]
  omega

@[simp] theorem toNat_lengthRef10 (l : BitVec 4) : (lengthRef10 l).toNat = l.toNat + 3 := by
  have := l.isLt
  simp [lengthRef10, BitVec.toNat_add]
  omega

@[simp] theorem toNat_lengthRef11S (l : BitVec 4) : (lengthRef11S l).toNat = l.toNat + 1 := by
  have := l.isLt
  simp [lengthRef11S, BitVec.toNat_add]
  omega

/-- The parameter bounds as numbers (44_lzss11_tokens.md R184). -/
theorem Config_wf_iff (c : Config) :
    c.wf = true ↔ c.bias3.toNat ≤ 0x10000 ∧ c.bias4.toNat ≤ 0x10000 ∧ c.outCapacity ≤ 4294967296 ∧ c.regBase % 4 = 0 := by
  simp [Config.wf, and_assoc]

/-- No length overflows the 17 bits of `copy_rem` (44_lzss11_tokens.md R184). -/
theorem toNat_lengthRef11M {c : Config} (h : c.wf = true) (l : BitVec 8) :
    (lengthRef11M c l).toNat = l.toNat + c.bias3.toNat := by
  have := l.isLt
  have := (Config_wf_iff c).1 h
  simp [lengthRef11M, BitVec.toNat_add]
  omega

theorem toNat_lengthRef11L {c : Config} (h : c.wf = true) (l : BitVec 16) :
    (lengthRef11L c l).toNat = l.toNat + c.bias4.toNat := by
  have := l.isLt
  have := (Config_wf_iff c).1 h
  simp [lengthRef11L, BitVec.toNat_add]
  omega

end Sys2Proof.Machine
end

