-- ==== Sys2Proof/Laws/PerInstr.lean ====
section
/-! SUPPORT. Statements about every instruction as syntax, one lemma for each constructor. -/

namespace Sys2Proof.Laws

/-- The encoding of an instruction has its width in bytes (30_encoding.md R85, the table's width_bytes). -/
def EncodedWidth.Statement (i : Instr) : Prop := (encode i).length = i.width

theorem EncodedWidth.hdr10 (n : BitVec 24) : EncodedWidth.Statement (.hdr10 n) := rfl
theorem EncodedWidth.hdr11 (n : BitVec 24) : EncodedWidth.Statement (.hdr11 n) := rfl
theorem EncodedWidth.hdr10x (n : BitVec 32) : EncodedWidth.Statement (.hdr10x n) := rfl
theorem EncodedWidth.hdr11x (n : BitVec 32) : EncodedWidth.Statement (.hdr11x n) := rfl
theorem EncodedWidth.flag (f : BitVec 8) : EncodedWidth.Statement (.flag f) := rfl
theorem EncodedWidth.lit (v : BitVec 8) : EncodedWidth.Statement (.lit v) := rfl
theorem EncodedWidth.ref10 (l : BitVec 4) (d : BitVec 12) : EncodedWidth.Statement (.ref10 l d) := rfl
theorem EncodedWidth.ref11s (l : BitVec 4) (d : BitVec 12) : EncodedWidth.Statement (.ref11s l d) := rfl
theorem EncodedWidth.ref11m (l : BitVec 8) (d : BitVec 12) : EncodedWidth.Statement (.ref11m l d) := rfl
theorem EncodedWidth.ref11l (l : BitVec 16) (d : BitVec 12) : EncodedWidth.Statement (.ref11l l d) := rfl
theorem EncodedWidth.copy : EncodedWidth.Statement .copy := rfl
theorem EncodedWidth.start : EncodedWidth.Statement .start := rfl

end Sys2Proof.Laws
end

