-- ==== Sys2Proof/Laws/Step.lean ====
section
/-! SUPPORT. One inversion lemma for the engine's step, and how steps and runs unfold. -/

namespace Sys2Proof.Machine

/-- Everything an engine step can do when it answers next: nothing (IDLE, DONE, ERROR), an element, or one of the two errors
of reading (41_main_loop.md R127). -/
theorem engineStep_next {s t : State} (h : engineStep s = .next t) :
    (nextContext s = none ∧ t = s)
      ∨ (∃ c i rest, nextContext s = some c ∧ decode c s.remaining = .ok i rest ∧ exec i s = .next t)
      ∨ (∃ c, nextContext s = some c ∧ decode c s.remaining = .truncated
          ∧ t = (s.consume s.remaining.length).raise .unexpectedEof 0)
      ∨ (∃ tag rest, s.phase = .header ∧ s.remaining = tag :: rest ∧ tag ≠ tagLzss10 ∧ tag ≠ tagLzss11
          ∧ t = (s.consume 1).raise .invalidHeader (tag.zeroExtend 32)) := by
  unfold engineStep at h
  split at h
  · rename_i hc
    exact .inl ⟨hc, by simpa using h.symm⟩
  · rename_i c hc
    cases hd : decode c s.remaining with
    | ok i rest =>
      rw [hd] at h
      exact .inr (.inl ⟨c, i, rest, hc, hd, h⟩)
    | truncated =>
      rw [hd] at h
      exact .inr (.inr (.inl ⟨c, hc, hd, by simpa [runDecoded] using h.symm⟩))
    | invalidTag tag =>
      rw [hd] at h
      obtain ⟨rfl, rest, hr, h1, h2⟩ := decode_invalidTag hd
      refine .inr (.inr (.inr ⟨tag, rest, ?_, hr, h1, h2, by simpa [runDecoded] using h.symm⟩))
      unfold nextContext at hc
      repeat' split at hc
      all_goals simp_all
    | noCommand =>
      have := decode_noCommand hd
      subst this
      unfold nextContext at hc
      repeat' split at hc
      all_goals simp at hc

/-- With no event waiting the engine moves. -/
theorem step_engine {s : State} (h : s.events = []) : step s = engineStep s := by
  simp [step, runAgent, h]

/-- With an event waiting the event is taken. -/
theorem step_event {s : State} {e : HostEvent} {rest : List HostEvent} (h : s.events = e :: rest) :
    step s = eventStep e { s with events := rest } := by
  simp [step, runAgent, h]

@[simp] theorem run_zero (s : State) : run 0 s = .next s := rfl

/-- A run of k + 1 steps is a step and a run of k. -/
theorem run_succ_of_next {s t : State} (h : step s = .next t) (k : Nat) : run (k + 1) s = run k t := by
  simp [run, h]

/-- A run that answers next went through a state after each step. -/
theorem run_succ_next {k : Nat} {s u : State} (h : run (k + 1) s = .next u) :
    ∃ t, step s = .next t ∧ run k t = .next u := by
  cases hs : step s with
  | next t => exact ⟨t, rfl, by simpa [run, hs] using h⟩
  | fault r => simp [run, hs] at h
  | refused r => simp [run, hs] at h

/-- The host's own run is this one. -/
theorem run_eq_core_run (k : Nat) (s : State) : run k s = Sys2Proof.core.run k s := by
  induction k generalizing s with
  | zero => rfl
  | succ k ih =>
    cases h : step s with
    | next t =>
      have h' : Sys2Proof.core.step s = .next t := h
      simp only [run, Host.Core.run, h, h', ih]
      rfl
    | fault r =>
      have h' : Sys2Proof.core.step s = .fault r := h
      simp only [run, Host.Core.run, h, h']
      rfl
    | refused r =>
      have h' : Sys2Proof.core.step s = .refused r := h
      simp only [run, Host.Core.run, h, h']
      rfl

/-- A register is reached by an aligned 32-bit access at its offset (10_state.md R33, R37). -/
theorem regOf_base {c : Config} (hb : c.regBase % 4 = 0) {off : Nat} (ho : off % 4 = 0) :
    regOf c (c.regBase + off) 4 = regAt off := by
  have : (c.regBase + off) % 4 = 0 := by omega
  simp [regOf, this]

/-- No register lies at 0x1C or above (10_state.md R37). -/
theorem regAt_eq_none {off : Nat} (h : 0x1C ≤ off) : regAt off = none := by
  unfold regAt
  split <;> first | omega | rfl

end Sys2Proof.Machine
end

