-- ==== Sys2Proof/Tests/Slice0.lean ====
section
/-! SUPPORT. Tests: each expected value is the spec's (95_test_vectors.md, or the example named), and for every obligation with
hypotheses a witness_… theorem shows a state and operands that meet them together, clause by clause. -/

namespace Sys2Proof.Tests

open Sys2Proof Sys2Proof.Machine

/-! ### Small states -/

/-- A decode has just been started on a stream. -/
def atHeader (bytes : List Byte) : State := State.reset.started bytes

/-- A decode stands at flag bit n. -/
def atBit (v : Variant) (f : Byte) (n : Fin 8) (outLen targetLen : BitVec 32) (bytes : List Byte) : State :=
  { atHeader bytes with
    phase := .bit n, variant := v, flag := f, hdrValid := true, outLen := outLen, targetLen := targetLen }

/-- A decode stands at a flag byte. -/
def atFlag (outLen targetLen : BitVec 32) (bytes : List Byte) : State :=
  { atHeader bytes with phase := .needFlag, hdrValid := true, outLen := outLen, targetLen := targetLen }

/-- 95_test_vectors.md W1: OUT = 41, `out_len` 1, `copy_dist` 1, `copy_rem` 5, `target_len` 6. -/
def atCopy : State :=
  { atHeader [] with
    phase := .copy 1, hdrValid := true, outLen := 1, targetLen := 6, out := [(0, 0x41)], copyDist := 1, copyRem := 5 }

/-- A decode of `ab` has ended and the host has read DONE. -/
def atDone : State :=
  { atHeader [] with
    phase := .done, hdrValid := true, outLen := 2, targetLen := 2, out := [(0, 0x61), (1, 0x62)], doneSeen := true }

/-- A decode has ended in InvalidHeader. -/
def atError : State := { atHeader [0x12] with phase := .error, err := .invalidHeader, errInfo := 0x12, inPos := 1 }

/-- A platform with an OUT of ten positions and biases of 0. -/
def smallConfig : Config := { bias3 := 0, bias4 := 0, outCapacity := 10, regBase := 0x40 }

/-- The same on that platform. -/
def onSmall (s : State) : State := { s with cfg := smallConfig }

/-- The state with one event waiting. -/
def withEvent (e : HostEvent) (s : State) : State := { s with events := [e] }

/-! ### Well-formedness: what the checks refuse -/

theorem test_wellFormed_refuses_zero_short_length_10 : (Instr.hdr10 0).wellFormed = false := by decide
theorem test_wellFormed_refuses_zero_short_length_11 : (Instr.hdr11 0).wellFormed = false := by decide
theorem test_wellFormed_refuses_tier_nibble_0 : (Instr.ref11s 0 0).wellFormed = false := by decide
theorem test_wellFormed_refuses_tier_nibble_1 : (Instr.ref11s 1 0xFFF).wellFormed = false := by decide

/-! ### Decoding: words written out bit by bit from 30_encoding.md R72 to R80, 10_state.md R34 -/

/-- R72: tag 0x10, then len24 = 0x030201 least significant byte first. -/
theorem test_decode_hdr10 :
    decode .header [0b00010000, 0b00000001, 0b00000010, 0b00000011] = .ok (.hdr10 0x030201) [] := by decide
/-- R72: tag 0x11. -/
theorem test_decode_hdr11 :
    decode .header [0b00010001, 0b00001010, 0b00000000, 0b00000000] = .ok (.hdr11 10) [] := by decide
/-- R73: three zero bytes, then len32 = 0x04030201 least significant byte first. -/
theorem test_decode_hdr10x :
    decode .header [0b00010000, 0, 0, 0, 0b00000001, 0b00000010, 0b00000011, 0b00000100]
      = .ok (.hdr10x 0x04030201) [] := by decide
/-- R104's example: target_len 16777216. -/
theorem test_decode_hdr11x :
    decode .header [0b00010001, 0, 0, 0, 0, 0, 0, 0b00000001] = .ok (.hdr11x 16777216) [] := by decide
/-- R83, R105: the tag is tested before any length byte is read. -/
theorem test_decode_invalid_tag : decode .header [0b00010010] = .invalidTag 0x12 := by decide
/-- R74. -/
theorem test_decode_flag : decode .flagByte [0b10000001, 0xAA] = .ok (.flag 0x81) [0xAA] := by decide
/-- R75. -/
theorem test_decode_lit : decode .literal [0b01100001] = .ok (.lit 0x61) [] := by decide
/-- R76: LLLL = 0xA, D = 0xBCD. -/
theorem test_decode_ref10 : decode .token10 [0b10101011, 0b11001101] = .ok (.ref10 0xA 0xBCD) [] := by decide
/-- R78: LLLL = 0x2, the least; D = 0xFFF. -/
theorem test_decode_ref11s : decode .token11 [0b00101111, 0b11111111] = .ok (.ref11s 0x2 0xFFF) [] := by decide
/-- R79: 0000, L = 0xAB, D = 0xCDE. -/
theorem test_decode_ref11m :
    decode .token11 [0b00001010, 0b10111100, 0b11011110] = .ok (.ref11m 0xAB 0xCDE) [] := by decide
/-- R80: 0001, L = 0xABCD, D = 0xEF5. -/
theorem test_decode_ref11l :
    decode .token11 [0b00011010, 0b10111100, 0b11011110, 0b11110101] = .ok (.ref11l 0xABCD 0xEF5) [] := by decide
/-- R34: bits 31:1 are ignored. -/
theorem test_decode_start : decode .ctrlWrite [0b11111111, 0xFF, 0xFF, 0xFF] = .ok .start [] := by decide
/-- R34: a write of 0 to bit 0 is no command. -/
theorem test_decode_no_command : decode .ctrlWrite [0b11111110, 0xFF, 0xFF, 0xFF] = .noCommand := by decide
/-- R51: the input ends inside a four-byte token. -/
theorem test_decode_truncated : decode .token11 [0x10, 0x01, 0xA0] = .truncated := by decide

/-- The opcode table's numbers, first stream byte highest (log entry 11). -/
theorem test_decodeTableWord :
    decodeTableWord 32 0x10140000 = some (.hdr10 20) ∧ decodeTableWord 32 0x110A0000 = some (.hdr11 10)
      ∧ decodeTableWord 64 0x1000000000010000 = some (.hdr10x 256)
      ∧ decodeTableWord 64 0x1100000000000001 = some (.hdr11x 16777216)
      ∧ decodeTableWord 8 0x08 = some (.flag 8) ∧ decodeTableWord 16 0x0003 = some (.ref10 0 3)
      ∧ decodeTableWord 16 0x7001 = some (.ref11s 7 1) ∧ decodeTableWord 24 0x002000 = some (.ref11m 2 0)
      ∧ decodeTableWord 32 0x10000000 = some (.ref11l 0 0) ∧ decodeTableWord 0 0 = some .copy
      ∧ decodeTableWord 32 1 = some .start := by decide

/-- From reset, the very next step runs the placed number: STATUS is BUSY with a header accepted. -/
theorem test_withFetchWord_runs_a_header :
    ∃ t, step (State.reset.withFetchWord 32 0x10140000) = .next t ∧ t.targetLen = 20 ∧ t.inPos = 4
      ∧ statusWord t = 0x11 := ⟨_, rfl, by decide⟩
/-- The same for a CTRL word: START. -/
theorem test_withFetchWord_runs_start :
    ∃ t, step (State.reset.withFetchWord 32 1) = .next t ∧ t.phase = .header := ⟨_, rfl, by decide⟩

/-! ### One step of each instruction -/

/-- HV15's header: a non-canonical extended length is accepted. -/
theorem test_exec_hdr10x :
    ∃ t, exec (.hdr10x 4) (atHeader []) = .next t ∧ t.targetLen = 4 ∧ t.ext = true ∧ t.inPos = 8
      ∧ t.phase = .needFlag := ⟨_, rfl, by decide⟩
/-- HV3: a length of 0 ends the decode; STATUS reads 0x52. -/
theorem test_exec_hdr10x_zero :
    ∃ t, exec (.hdr10x 0) (atHeader []) = .next t ∧ t.phase = .done ∧ statusWord t = 0x52 := ⟨_, rfl, by decide⟩
/-- R101's example. -/
theorem test_exec_hdr10 :
    ∃ t, exec (.hdr10 20) (atHeader []) = .next t ∧ t.targetLen = 20 ∧ t.variant = .lzss10 ∧ t.inPos = 4 :=
  ⟨_, rfl, by decide⟩
/-- R102's example. -/
theorem test_exec_hdr11 :
    ∃ t, exec (.hdr11 10) (atHeader []) = .next t ∧ t.targetLen = 10 ∧ t.variant = .lzss11 ∧ t.inPos = 4 :=
  ⟨_, rfl, by decide⟩
/-- R104's example; STATUS then has STATE 1, HDR_VALID, VARIANT and EXT. -/
theorem test_exec_hdr11x :
    ∃ t, exec (.hdr11x 16777216) (atHeader []) = .next t ∧ t.targetLen = 16777216 ∧ statusWord t = 0x71 :=
  ⟨_, rfl, by decide⟩
/-- R121's example. -/
theorem test_exec_flag :
    ∃ t, engineStep { atFlag 0 20 [0x10, 0x14, 0, 0, 0x08] with inPos := 4 } = .next t
      ∧ t.flag = 8 ∧ t.phase = .bit 0 ∧ t.inPos = 5 := ⟨_, rfl, by decide⟩
/-- R123's example. -/
theorem test_exec_lit :
    ∃ t, exec (.lit 0x61) (atBit .lzss10 0x08 0 0 20 []) = .next t ∧ t.out = [(0, 0x61)] ∧ t.outLen = 1
      ∧ t.phase = .bit 1 := ⟨_, rfl, by decide⟩
/-- R125: the literal that reaches the target ends the decode at once. -/
theorem test_exec_lit_last :
    ∃ t, exec (.lit 0x61) (atBit .lzss10 0x00 7 19 20 []) = .next t ∧ t.phase = .done := ⟨_, rfl, by decide⟩
/-- R124's example: D0 03 with four bytes produced. -/
theorem test_exec_ref10 :
    ∃ t, engineStep (atBit .lzss10 0x08 4 4 20 [0xD0, 0x03]) = .next t ∧ t.copyRem = 16 ∧ t.copyDist = 4
      ∧ t.phase = .copy 4 ∧ t.inPos = 2 := ⟨_, rfl, by decide⟩
/-- W4: the same kind of token with nothing produced raises InvalidBackReference with the distance. -/
theorem test_exec_ref10_far :
    ∃ t, engineStep (atBit .lzss10 0x80 0 0 5 [0, 0]) = .next t ∧ t.err = .invalidBackReference ∧ t.errInfo = 1
      ∧ statusWord t = 0x1F := ⟨_, rfl, by decide⟩
/-- R181's example. -/
theorem test_exec_ref11s :
    ∃ t, engineStep (atBit .lzss11 0x80 0 2 99 [0x70, 0x01]) = .next t ∧ t.copyRem = 8 ∧ t.copyDist = 2 :=
  ⟨_, rfl, by decide⟩
/-- R182's example. -/
theorem test_exec_ref11m :
    ∃ t, engineStep (atBit .lzss11 0x80 0 2 99 [0x00, 0x20, 0x00]) = .next t ∧ t.copyRem = 19 ∧ t.copyDist = 1 :=
  ⟨_, rfl, by decide⟩
/-- R183's example, and its longest token. -/
theorem test_exec_ref11l :
    (∃ t, engineStep (atBit .lzss11 0x80 0 2 99 [0x10, 0x01, 0xA0, 0x00]) = .next t ∧ t.copyRem = 299
        ∧ t.copyDist = 1)
      ∧ ∃ t, engineStep (atBit .lzss11 0x80 0 4096 9999 [0x1F, 0xFF, 0xFF, 0xFF]) = .next t ∧ t.copyRem = 65808
        ∧ t.copyDist = 4096 := ⟨⟨_, rfl, by decide⟩, ⟨_, rfl, by decide⟩⟩
/-- W1's first copy step, and its fifth: the copy sees the bytes it wrote itself. -/
theorem test_exec_copy :
    (∃ t, exec .copy atCopy = .next t ∧ t.out = [(0, 0x41), (1, 0x41)] ∧ t.copyRem = 4 ∧ t.phase = .copy 1)
      ∧ ∃ t, run 5 atCopy = .next t ∧ t.outLen = 6 ∧ outPrefix t.out 6 = some [0x41, 0x41, 0x41, 0x41, 0x41, 0x41]
        ∧ t.phase = .done := ⟨⟨_, rfl, by decide⟩, ⟨_, rfl, by decide⟩⟩
/-- R120's example: writing CTRL = 1 after reset moves STATE from IDLE to BUSY. -/
theorem test_exec_start :
    ∃ t, step { withEvent (.regWrite 0 4 1) State.reset with port := [0x10, 0x14] } = .next t
      ∧ t.phase = .header ∧ t.input = some [0x10, 0x14] ∧ statusWord t = 1 := ⟨_, rfl, by decide⟩
/-- HV5: `12 00 00` gives InvalidHeader, ERR_INFO 0x12, `in_pos` 1, STATUS 0x07. -/
theorem test_invalid_header :
    ∃ t, step (atHeader [0x12, 0, 0]) = .next t ∧ t.errInfo = 0x12 ∧ t.inPos = 1 ∧ statusWord t = 7 :=
  ⟨_, rfl, by decide⟩
/-- HV11: an extended header cut inside len32 gives UnexpectedEof, `in_pos` 6, STATUS 0x0B. -/
theorem test_truncated_header :
    ∃ t, step (atHeader [0x11, 0, 0, 0, 5, 0]) = .next t ∧ t.inPos = 6 ∧ t.errInfo = 0 ∧ statusWord t = 0x0B :=
  ⟨_, rfl, by decide⟩

/-! ### Witnesses of the hypotheses -/

theorem atCopy_inv : atCopy.Inv where
  outLen_le := by decide
  outLen_lt := by decide
  copy_ok := by intro n _; decide
  done_ok := by decide
  hdr_ok := by decide
  no_hdr := by decide
  no_hdr_zero := by decide
  short_ok := by decide
  err_ok := by decide
  input_ok := fun _ => ⟨[], rfl, by decide⟩
  written := fun _ a ha => by
    have : a = 0 := by
      have h1 : atCopy.outLen.toNat = 1 := rfl
      omega
    subst this; rfl
  out_wf := by decide
  fits := by decide
  cfg_wf := by decide

theorem atHeader_inv (bytes : List Byte) : (atHeader bytes).Inv where
  outLen_le := by simp [atHeader, State.started]
  outLen_lt := by simp [atHeader, State.started, Phase.decoding]
  copy_ok := by simp [atHeader, State.started]
  done_ok := by simp [atHeader, State.started]
  hdr_ok := by simp [atHeader, State.started, Phase.decoding]
  no_hdr := by simp [atHeader, State.started]
  no_hdr_zero := by simp [atHeader, State.started]
  short_ok := by simp [atHeader, State.started]
  err_ok := by simp [atHeader, State.started]
  input_ok := fun _ => ⟨bytes, rfl, Nat.zero_le _⟩
  written := fun _ a ha => absurd ha (Nat.not_lt_zero a)
  out_wf := ⟨rfl, rfl⟩
  fits := by simp [atHeader, State.started]
  cfg_wf := rfl

theorem witness_DecodeEncodeRoundTrip :
    (Instr.hdr10 1).wellFormed = true ∧ (Instr.hdr11 0xFFFFFF).wellFormed = true
      ∧ (Instr.hdr10x 0).wellFormed = true ∧ (Instr.hdr11x 0xFFFFFFFF).wellFormed = true
      ∧ (Instr.flag 0xFF).wellFormed = true ∧ (Instr.lit 0).wellFormed = true ∧ (Instr.ref10 0 0).wellFormed = true
      ∧ (Instr.ref11s 2 0xFFF).wellFormed = true ∧ (Instr.ref11m 0 0).wellFormed = true
      ∧ (Instr.ref11l 0xFFFF 0xFFF).wellFormed = true ∧ Instr.copy.wellFormed = true
      ∧ Instr.start.wellFormed = true := by decide

theorem witness_DecodedBytesAreTheEncoding :
    Context.header ≠ .ctrlWrite ∧ decode .header [0x10, 1, 0, 0, 9] = .ok (.hdr10 1) [9] := by decide

theorem witness_HighNibbleSelectsTheTier_and_TokenFields :
    (0x0F : Byte).toNat / 16 = 0 ∧ (0x1F : Byte).toNat / 16 = 1 ∧ 2 ≤ (0x20 : Byte).toNat / 16 := by decide

theorem witness_DefaultTiersTileTheLengths :
    (3 ≤ 3 ∧ 3 ≤ 65808 ∧ 1 ≤ 1 ∧ 1 ≤ 4096) ∧ (3 ≤ 65808 ∧ 65808 ≤ 65808 ∧ 1 ≤ 4096 ∧ 4096 ≤ 4096) := by decide

theorem witness_ListingTokensDecodeToTheirOperands :
    Config.default.wf = true ∧ smallConfig.wf = true
      ∧ assembleItem Config.default (.ref10 18 4096) = some [0xFF, 0xFF]
      ∧ assembleItem Config.default (.ref11s 3 1) = some [0x20, 0x00]
      ∧ assembleItem Config.default (.ref11m 272 4096) = some [0x0F, 0xFF, 0xFF]
      ∧ assembleItem Config.default (.ref11l 65808 4096) = some [0x1F, 0xFF, 0xFF, 0xFF]
      ∧ assembleItem smallConfig (.ref11l 0 1) = some [0x10, 0, 0, 0] := by decide

theorem witness_ListingHeadersDecodeToTheirLength :
    assembleItem Config.default (.hdr .lzss10 0) = some [0x10, 0, 0, 0, 0, 0, 0, 0]
      ∧ assembleItem Config.default (.hdr .lzss11 0xFFFFFF) = some [0x11, 0xFF, 0xFF, 0xFF]
      ∧ assembleItem Config.default (.hdr .lzss10 0xFFFFFFFF) = some [0x10, 0, 0, 0, 0xFF, 0xFF, 0xFF, 0xFF] := by
  decide

theorem witness_StepRunsTheDecodedInstruction :
    (atHeader [0x10, 1, 0, 0]).events = [] ∧ nextContext (atHeader [0x10, 1, 0, 0]) = some .header
      ∧ decode .header (atHeader [0x10, 1, 0, 0]).remaining = .ok (.hdr10 1) []
      ∧ atCopy.events = [] ∧ nextContext atCopy = some .copyStep
      ∧ decode .copyStep atCopy.remaining = .ok .copy [] := by decide

theorem witness_EventsAreTakenInOrder :
    (withEvent .engine State.reset).events = [.engine]
      ∧ (withEvent (.present [1]) State.reset).events = [.present [1]]
      ∧ (withEvent (.present [1]) State.reset).phase.busy = false ∧ State.reset.events = [] := by decide

theorem witness_FlagBitsAreTakenMsbFirst :
    (atBit .lzss10 0x7F 0 0 9 []).phase = .bit 0 ∧ (0x7F : Byte).toNat / 2 ^ (7 - 0) % 2 = 0
      ∧ (0x80 : Byte).toNat / 2 ^ (7 - 0) % 2 = 1 ∧ (0xFE : Byte).toNat / 2 ^ (7 - 7) % 2 = 0
      ∧ (0x01 : Byte).toNat / 2 ^ (7 - 7) % 2 = 1 := by decide

theorem witness_EngineStepRefinesThePseudocode : (atHeader [0x10, 1, 0, 0, 0, 0x41]).inputBytes.length < 2 ^ 64 := by
  decide

theorem witness_ResetEventGivesTheResetValues :
    (withEvent .reset atCopy).events = [.reset] ∧ (0xFFFFFFFF : BitVec 32).toNat < State.reset.cfg.outCapacity := by
  decide

theorem witness_StartBindsTheInputAndClears : atCopy.phase.busy = true ∧ atError.phase.busy = false := by decide

theorem witness_CtrlWriteIssuesStart :
    (onSmall atDone).cfg.regBase % 4 = 0
      ∧ (withEvent (.regWrite (onSmall atDone).cfg.regBase 4 0xFFFFFFFF) (onSmall atDone)).events
        = [.regWrite 0x40 4 0xFFFFFFFF]
      ∧ (0xFFFFFFFF : Word).toNat % 2 = 1 ∧ (0xFFFFFFFE : Word).toNat % 2 = 0 := by decide

/-- Two states that differ in OUT and in their registers start the same stream, which ends in DONE. -/
theorem witness_ObservationDependsOnTheInputOnly :
    atCopy.events = [] ∧ atDone.events = [] ∧ atCopy.cfg = atDone.cfg ∧ atCopy.cfg.wf = true
      ∧ ∃ t, run 3 (atCopy.started [0x10, 1, 0, 0, 0, 0x41]) = .next t ∧ observe t = some (.ok [0x41] 6 .lzss10 false 1) :=
  ⟨by decide, by decide, by decide, by decide, _, rfl, by decide⟩

/-- Each of the seven offsets is in the list; here the first, STATUS and the last. -/
theorem witness_RegisterMapOfTheHostWindow :
    (onSmall atError).cfg.regBase % 4 = 0
      ∧ (withEvent (.regRead 0x44 4) (onSmall atError)).events = [.regRead ((onSmall atError).cfg.regBase + 0x04) 4]
      ∧ (withEvent (.regWrite 0x58 4 9) (onSmall atError)).events
        = [.regWrite ((onSmall atError).cfg.regBase + 0x18) 4 9]
      ∧ readReg atError .ctrl = 0 ∧ readReg atError .status = 7 ∧ readReg atError .errInfo = 0x12 := by decide

theorem witness_StatusWordFields :
    (atHeader []).Inv ∧ atCopy.Inv ∧ statusWord atCopy = 0x11 ∧ statusWord atDone = 0x12 :=
  ⟨atHeader_inv [], atCopy_inv, by decide⟩

theorem witness_UnmappedAccessIsRefused :
    State.reset.cfg.regBase + 0x1C ≤ 0x1C ∧ 2 ≠ 4 ∧ 0x05 % 4 ≠ 0
      ∧ (withEvent (.regRead 0x1C 4) State.reset).events = [.regRead 0x1C 4]
      ∧ (withEvent (.regWrite 0x05 4 1) State.reset).events = [.regWrite 0x05 4 1] := by decide

theorem witness_HostReadsOutOnlyAfterDone :
    (withEvent (.outRead 1) atDone).events = [.outRead 1] ∧ (1 : BitVec 32).toNat < atDone.cfg.outCapacity
      ∧ atDone.phase = .done ∧ atDone.doneSeen = true ∧ (1 : BitVec 32).toNat < atDone.targetLen.toNat
      ∧ atDone.out.read 1 = some 0x62
      ∧ atDone.targetLen.toNat ≤ (2 : BitVec 32).toNat ∧ atCopy.phase ≠ .done
      ∧ { atDone with doneSeen := false }.doneSeen = false := by decide

theorem witness_ReadingDoneIsRemembered :
    State.reset.cfg.regBase % 4 = 0
      ∧ (withEvent (.regRead 4 4) { atDone with doneSeen := false }).events
        = [.regRead (atDone.cfg.regBase + 4) 4] := by decide

theorem witness_HostInterferenceWhileBusyIsRefused :
    atCopy.phase.busy = true ∧ (withEvent (.outWrite 0 1) atCopy).events = [.outWrite 0 1]
      ∧ (withEvent (.present [1]) atCopy).events = [.present [1]] ∧ atCopy.input ≠ some [1] := by decide

theorem witness_ShortHeaderCompletes :
    (atHeader []).phase = .header ∧ (1 : BitVec 24) ≠ 0 ∧ (1 : BitVec 24).toNat ≤ (atHeader []).cfg.outCapacity
      ∧ (0xFFFFFF : BitVec 24) ≠ 0 ∧ (0xFFFFFF : BitVec 24).toNat ≤ (atHeader []).cfg.outCapacity := by decide

theorem witness_ExtendedHeaderCompletes :
    (atHeader []).phase = .header ∧ (0 : BitVec 32).toNat ≤ (atHeader []).cfg.outCapacity
      ∧ (0xFFFFFFFF : BitVec 32).toNat ≤ (atHeader []).cfg.outCapacity
      ∧ (10 : BitVec 32).toNat ≤ (onSmall (atHeader [])).cfg.outCapacity := by decide

theorem witness_HeaderAboveCapacityIsRefused :
    (onSmall (atHeader [])).phase = .header ∧ (onSmall (atHeader [])).cfg.outCapacity < (11 : BitVec 24).toNat
      ∧ (onSmall (atHeader [])).cfg.outCapacity < (11 : BitVec 32).toNat
      ∧ (atHeader []).cfg.outCapacity = Config.default.outCapacity := by decide

theorem witness_HeaderLengthIsLittleEndian :
    (atHeader [0x11, 1, 0, 0]).cfg.outCapacity = 2 ^ 32 ∧ (atHeader [0x11, 1, 0, 0]).phase = .header
      ∧ (atHeader [0x11, 1, 0, 0]).remaining = tagOf .lzss11 :: 1 :: 0 :: 0 :: []
      ∧ (1 : Byte).toNat + 256 * (0 : Byte).toNat + 65536 * (0 : Byte).toNat ≠ 0
      ∧ (atHeader [0x10, 0, 0, 0, 0, 1, 0, 0]).remaining = tagOf .lzss10 :: 0 :: 0 :: 0 :: [0, 1, 0, 0]
      ∧ (0 : Byte).toNat + 256 * (0 : Byte).toNat + 65536 * (0 : Byte).toNat = 0 := by decide

theorem witness_InvalidTagRaisesInvalidHeader :
    (atHeader [0x12]).phase = .header ∧ (atHeader [0x12]).remaining = [0x12] ∧ (0x12 : Byte) ≠ 0x10
      ∧ (0x12 : Byte) ≠ 0x11 ∧ (atHeader [0x12]).err ≠ .invalidHeader
      ∧ ∃ t, engineStep (atHeader [0x12]) = .next t ∧ t.err = .invalidHeader :=
  ⟨by decide, by decide, by decide, by decide, by decide, _, rfl, by decide⟩

/-- An empty stream, a header cut at its eighth byte, a missing flag byte, a missing literal and a token of each width cut at
its last byte. -/
theorem witness_InputEndRaisesUnexpectedEof :
    endsInsideElement (atHeader []) = true ∧ endsInsideElement (atHeader [0x11, 0, 0, 0, 1, 2, 3]) = true
      ∧ endsInsideElement (atFlag 0 9 []) = true ∧ endsInsideElement (atBit .lzss10 0x7F 0 0 9 []) = true
      ∧ endsInsideElement (atBit .lzss10 0x80 0 0 9 [0]) = true
      ∧ endsInsideElement (atBit .lzss11 0x80 0 0 9 [0x20]) = true
      ∧ endsInsideElement (atBit .lzss11 0x80 0 0 9 [0x0F, 0]) = true
      ∧ endsInsideElement (atBit .lzss11 0x80 0 0 9 [0x1F, 0, 0]) = true
      ∧ (atBit .lzss11 0x80 0 0 9 [0x1F, 0, 0]).input = some [0x1F, 0, 0]
      ∧ (atBit .lzss11 0x80 0 0 9 [0x1F, 0, 0]).inPos.toNat ≤ [0x1F, 0, 0].length := by decide

theorem witness_FarDistanceRaisesInvalidBackReference :
    (atBit .lzss10 0x80 0 0 9 []).phase = .bit 0 ∧ flagBit 0x80 0 = true
      ∧ (atBit .lzss10 0x80 0 0 9 []).outLen.toNat < (0 : BitVec 12).toNat + 1
      ∧ (atBit .lzss11 0x01 7 4095 9999 []).phase = .bit 7 ∧ flagBit 0x01 7 = true
      ∧ (atBit .lzss11 0x01 7 4095 9999 []).outLen.toNat < (0xFFF : BitVec 12).toNat + 1
      ∧ (atBit .lzss10 0x80 0 0 9 []).variant = .lzss10 ∧ (atBit .lzss11 0x01 7 4095 9999 []).variant = .lzss11 := by
  decide

theorem witness_FaultsArePrecise :
    (atHeader [0x12]).phase ≠ .error ∧ ∃ t, engineStep (atHeader [0x12]) = .next t ∧ t.phase = .error :=
  ⟨by decide, _, rfl, by decide⟩

theorem witness_DoneAndErrorAreTerminal :
    atDone.phase = .done ∧ atError.phase = .error
      ∧ (∃ t, eventStep .reset atError = .next t ∧ t.phase ≠ atError.phase)
      ∧ ∃ t, eventStep (.regWrite atDone.cfg.regBase 4 1) atDone = .next t ∧ t.phase ≠ atDone.phase :=
  ⟨by decide, by decide, ⟨_, rfl, by decide⟩, _, rfl, by decide⟩

theorem witness_AdvanceMovesToTheNextBit :
    (atBit .lzss10 0 7 9 9 []).outLen ≤ (atBit .lzss10 0 7 9 9 []).targetLen
      ∧ ((atBit .lzss10 0 7 9 9 []).advance 7).phase = .done
      ∧ ((atBit .lzss10 0 7 8 9 []).advance 7).phase = .needFlag
      ∧ ((atBit .lzss10 0 6 8 9 []).advance 6).phase = .bit 7 := by decide

/-- The last clause is met by the header that is followed by a flag byte. -/
theorem witness_FlagByteCompletes :
    (atFlag 0 9 []).phase = .needFlag ∧ (atFlag 0 9 []).remaining = [] ∧ (atHeader [0x10, 9, 0, 0]).Inv
      ∧ ∃ t, engineStep (atHeader [0x10, 9, 0, 0]) = .next t ∧ t.phase = .needFlag :=
  ⟨by decide, by decide, atHeader_inv _, _, rfl, by decide⟩

theorem witness_LiteralCompletes :
    (atBit .lzss11 0xFE 7 8 9 []).phase = .bit 7 ∧ flagBit 0xFE 7 = false
      ∧ (atBit .lzss11 0xFE 7 8 9 []).outLen.toNat < (atBit .lzss11 0xFE 7 8 9 []).cfg.outCapacity
      ∧ (atBit .lzss11 0xFE 7 8 9 []).outLen.toNat < (atBit .lzss11 0xFE 7 8 9 []).targetLen.toNat := by decide

theorem witness_Lzss10TokenCompletes :
    (atBit .lzss10 0x80 0 4096 9999 []).phase = .bit 0 ∧ flagBit 0x80 0 = true
      ∧ (atBit .lzss10 0x80 0 4096 9999 []).variant = .lzss10
      ∧ (0xFFF : BitVec 12).toNat + 1 ≤ (atBit .lzss10 0x80 0 4096 9999 []).outLen.toNat := by decide

theorem witness_Lzss11TokensComplete :
    (atBit .lzss11 0x80 0 1 9 []).phase = .bit 0 ∧ flagBit 0x80 0 = true
      ∧ (atBit .lzss11 0x80 0 1 9 []).variant = .lzss11 ∧ (atBit .lzss11 0x80 0 1 9 []).cfg.wf = true
      ∧ (0 : BitVec 12).toNat + 1 ≤ (atBit .lzss11 0x80 0 1 9 []).outLen.toNat
      ∧ (0 : BitVec 8).toNat + (atBit .lzss11 0x80 0 1 9 []).cfg.bias3.toNat ≠ 0
      ∧ (0 : BitVec 16).toNat + (atBit .lzss11 0x80 0 1 9 []).cfg.bias4.toNat ≠ 0
      ∧ (1 : BitVec 8).toNat + smallConfig.bias3.toNat ≠ 0 ∧ (1 : BitVec 16).toNat + smallConfig.bias4.toNat ≠ 0 := by
  decide

theorem witness_ZeroLengthTokenIsSkipped :
    (onSmall (atBit .lzss11 0x80 0 1 9 [])).phase = .bit 0 ∧ flagBit 0x80 0 = true
      ∧ (onSmall (atBit .lzss11 0x80 0 1 9 [])).variant = .lzss11
      ∧ (0 : BitVec 12).toNat + 1 ≤ (onSmall (atBit .lzss11 0x80 0 1 9 [])).outLen.toNat
      ∧ (onSmall (atBit .lzss11 0x80 0 1 9 [])).cfg.bias3 = 0
      ∧ (onSmall (atBit .lzss11 0x80 0 1 9 [])).cfg.bias4 = 0 := by decide

/-- In the middle of the copy; at its last byte; and at the target with bytes left to copy. -/
theorem witness_CopyStepCompletes :
    atCopy.phase = .copy 1 ∧ atCopy.outLen.toNat < atCopy.targetLen.toNat
      ∧ atCopy.outLen.toNat < atCopy.cfg.outCapacity ∧ 1 ≤ atCopy.copyRem.toNat
      ∧ atCopy.copyDist.toNat ≤ atCopy.outLen.toNat
      ∧ atCopy.out.read (atCopy.outLen.toNat - atCopy.copyDist.toNat) = some 0x41
      ∧ atCopy.copyRem.toNat ≠ 1 ∧ atCopy.outLen.toNat + 1 ≠ atCopy.targetLen.toNat
      ∧ { atCopy with copyRem := 1 }.copyRem.toNat = 1
      ∧ { atCopy with targetLen := 2 }.outLen.toNat + 1 = { atCopy with targetLen := 2 }.targetLen.toNat := by decide

theorem witness_CopyReadsInsideTheWindow_and_CopyHasTheClosedForm :
    atCopy.Inv ∧ atCopy.phase = .copy 1 ∧ atCopy.events = []
      ∧ min atCopy.copyRem.toNat (atCopy.targetLen.toNat - atCopy.outLen.toNat) = 5 :=
  ⟨atCopy_inv, by decide⟩

theorem witness_ElementsThatStoreNothingKeepTheRest :
    (∃ t, exec (.hdr10 1) (atHeader []) = .next t) ∧ (∃ t, exec (.flag 1) (atFlag 0 1 []) = .next t)
      ∧ (∃ t, exec (.ref10 0 0) (atBit .lzss10 0x80 0 1 9 []) = .next t ∧ t.phase ≠ .error)
      ∧ (∃ t, exec (.ref11m 0 0) (atBit .lzss11 0x80 0 1 9 []) = .next t ∧ t.phase ≠ .error)
      ∧ ∃ t, exec .start atDone = .next t :=
  ⟨⟨_, rfl⟩, ⟨_, rfl⟩, ⟨_, rfl, by decide⟩, ⟨_, rfl, by decide⟩, _, rfl⟩

theorem witness_StoringStepsKeepTheRest :
    (∃ t, exec (.lit 7) (atBit .lzss10 0x7F 0 0 9 []) = .next t)
      ∧ (∃ t, exec .copy atCopy = .next t) ∧ (atCopy.out.read (copySource atCopy).toNat).isSome = true :=
  ⟨⟨_, rfl⟩, ⟨_, rfl⟩, by decide⟩

theorem witness_EveryStepKeepsTheInvariant_and_EngineStepAlwaysAnswers :
    atCopy.Inv ∧ (∃ t, step atCopy = .next t) ∧ (atHeader [0x12]).Inv :=
  ⟨atCopy_inv, ⟨_, rfl⟩, atHeader_inv _⟩

theorem witness_InputPositionOnlyAdvances :
    (atHeader [0x10, 0, 0, 0, 1, 0, 0, 0]).input = some [0x10, 0, 0, 0, 1, 0, 0, 0]
      ∧ ∃ t, engineStep (atHeader [0x10, 0, 0, 0, 1, 0, 0, 0]) = .next t ∧ t.inPos = 8 :=
  ⟨by decide, _, rfl, by decide⟩

/-- Both disjuncts happen: a decode that ends, and one whose header exceeds OUT. -/
theorem witness_EveryDecodeEndsWithinTheBound :
    State.reset.events = [] ∧ State.reset.cfg.wf = true ∧ (onSmall State.reset).cfg.wf = true
      ∧ (∃ t, run 3 (State.reset.started [0x10, 1, 0, 0, 0, 0x41]) = .next t ∧ t.ended = true)
      ∧ run 1 ((onSmall State.reset).started [0x10, 11, 0, 0]) = .refused .outCapacityExceeded :=
  ⟨by decide, by decide, by decide, ⟨_, rfl, by decide⟩, rfl⟩

theorem witness_SuccessYieldsExactlyTargetLenBytes :
    (atHeader [0x10, 1, 0, 0, 0, 0x41]).Inv ∧ (atHeader [0x10, 1, 0, 0, 0, 0x41]).events = []
      ∧ (atHeader [0x10, 1, 0, 0, 0, 0x41]).phase.busy = true
      ∧ ∃ t, run 3 (atHeader [0x10, 1, 0, 0, 0, 0x41]) = .next t ∧ t.phase = .done :=
  ⟨atHeader_inv _, by decide, by decide, _, rfl, by decide⟩

theorem witness_TrailingInputIsNeverRead :
    State.reset.events = [] ∧ State.reset.cfg.wf = true
      ∧ ∃ t, run 3 (State.reset.started [0x10, 1, 0, 0, 0, 0x41]) = .next t ∧ t.phase = .done :=
  ⟨by decide, by decide, _, rfl, by decide⟩

theorem witness_OutNeverSteersTheDecode : ∃ t, engineStep atCopy = .next t := ⟨_, rfl⟩

end Sys2Proof.Tests
end

section
/-! What one engine step can do, as a relation with a named case for each kind of element, and what follows from it for the
output of a decode: every byte below `out_len` has been written, and DONE is reached at `target_len` only. -/

namespace Sys2Proof

/-- The decoder answers an instruction of the context it was asked for (30_encoding.md R70). -/
theorem context_of_decode_ok {c : Context} {bs rest : List Byte} {i : Instr} (h : decode c bs = .ok i rest) :
    i.context = c := by
  cases c <;> simp only [decode] at h
  case header =>
    unfold decodeHeader decodeLength decodeLen32 at h
    repeat' split at h
    all_goals cases h <;> rfl
  case flagByte => unfold decodeFlag at h; split at h <;> cases h; rfl
  case literal => unfold decodeLit at h; split at h <;> cases h; rfl
  case token10 => unfold decodeToken10 at h; split at h <;> cases h; rfl
  case token11 =>
    unfold decodeToken11 decodeTierM decodeTierL decodeTierS at h
    repeat' split at h
    all_goals cases h <;> rfl
  case copyStep => cases h; rfl
  case ctrlWrite =>
    unfold decodeCtrl at h
    repeat' split at h
    all_goals cases h <;> rfl

end Sys2Proof

namespace Sys2Proof.Machine

/-- The engine never selects a CTRL word: that is the host's (10_state.md R34). -/
theorem nextContext_ne_ctrlWrite (s : State) : nextContext s ≠ some .ctrlWrite := by
  unfold nextContext
  repeat' split
  all_goals simp

/-- What an engine step does to the state, a case for each kind of step of 41_main_loop.md R127, with the guards that the
element's meaning tested. The operands are any here: `engineStep_next` ties them to the bytes at `in_pos`. -/
inductive EngineMove (s : State) : State → Prop where
  /-- IDLE, DONE and ERROR: the engine takes no step. -/
  | stay (hc : nextContext s = none) : EngineMove s s
  /-- The input ends inside the element (60_exceptions.md R202). -/
  | endOfInput (c : Context) (hc : nextContext s = some c) (hd : decode c s.remaining = .truncated) :
      EngineMove s ((s.consume s.remaining.length).raise .unexpectedEof 0)
  /-- The tag is neither of the two (60_exceptions.md R201). -/
  | badTag (tag : Byte) (rest : List Byte) (hp : s.phase = .header) (hr : s.remaining = tag :: rest)
      (h10 : tag ≠ tagLzss10) (h11 : tag ≠ tagLzss11) :
      EngineMove s ((s.consume 1).raise .invalidHeader (tag.zeroExtend 32))
  /-- A header is accepted (40_header.md R100). -/
  | header (v : Variant) (e : Bool) (len : BitVec 32) (width : Nat) (hp : s.phase = .header)
      (hfit : len.toNat ≤ s.cfg.outCapacity) : EngineMove s ((s.consume width).headerAccepted v e len)
  /-- FLAG (41_main_loop.md R121). -/
  | flag (f : Byte) (hp : s.phase = .needFlag) : EngineMove s { s.consume 1 with flag := f, phase := .bit 0 }
  /-- LIT (41_main_loop.md R123). -/
  | lit (v : Byte) (n : Fin 8) (hp : s.phase = .bit n) (hf : flagBit s.flag n = false)
      (hfit : s.outLen.toNat < s.cfg.outCapacity) : EngineMove s (((s.consume 1).appended v).advance n)
  /-- A back-reference token (41_main_loop.md R124). -/
  | token (len : BitVec 17) (dist : BitVec 13) (width : Nat) (n : Fin 8) (hp : s.phase = .bit n)
      (hf : flagBit s.flag n = true) : EngineMove s (backRef n len dist (s.consume width))
  /-- COPY (42_copy_engine.md R140). -/
  | copy (n : Fin 8) (hp : s.phase = .copy n) (hfit : s.outLen.toNat < s.cfg.outCapacity) :
      EngineMove s (copyTail n
        ((s.afterOutRead (copySource s).toNat).appended (s.outByte (copySource s).toNat)))

theorem EngineMove.of_headerStep {v : Variant} {e : Bool} {len : BitVec 32} {width : Nat} {s t : State}
    (h : headerStep v e len width s = .next t) : EngineMove s t := by
  obtain ⟨hp, hfit, rfl⟩ := headerStep_next.1 h
  exact .header v e len width hp hfit

theorem EngineMove.of_tokenStep {v : Variant} {len : BitVec 17} {dist : BitVec 13} {width : Nat} {s t : State}
    (h : tokenStep v len dist width s = .next t) : EngineMove s t := by
  obtain ⟨n, hp, hf, -, rfl⟩ := tokenStep_next.1 h
  exact .token len dist width n hp hf

/-- Every instruction but the host's START moves the state as an engine step does. -/
theorem EngineMove.of_exec {i : Instr} {s t : State} (hi : i ≠ .start) (h : exec i s = .next t) :
    EngineMove s t := by
  cases i with
  | hdr10 len24 => exact .of_headerStep h
  | hdr11 len24 => exact .of_headerStep h
  | hdr10x len32 => exact .of_headerStep h
  | hdr11x len32 => exact .of_headerStep h
  | flag f =>
    obtain ⟨hp, rfl⟩ := execFlag_next.1 h
    exact .flag f hp
  | lit v =>
    obtain ⟨n, hp, hf, hfit, rfl⟩ := execLit_next.1 h
    exact .lit v n hp hf hfit
  | ref10 l d => exact .of_tokenStep h
  | ref11s l d => exact .of_tokenStep h
  | ref11m l d => exact .of_tokenStep h
  | ref11l l d => exact .of_tokenStep h
  | copy =>
    obtain ⟨n, hp, hfit, rfl⟩ := execCopy_next.1 h
    exact .copy n hp hfit
  | start => exact absurd rfl hi

/-- An engine step that answers next is one of the moves. -/
theorem engineStep_move {s t : State} (h : engineStep s = .next t) : EngineMove s t := by
  obtain ⟨hc, rfl⟩ | ⟨c, i, rest, hc, hd, hx⟩ | ⟨c, hc, hd, rfl⟩ | ⟨tag, rest, hp, hr, h10, h11, rfl⟩ :=
    engineStep_next h
  · exact .stay hc
  · refine .of_exec ?_ hx
    rintro rfl
    obtain rfl : Context.ctrlWrite = c := context_of_decode_ok hd
    exact nextContext_ne_ctrlWrite s hc
  · exact .endOfInput c hc hd
  · exact .badTag tag rest hp hr h10 h11

/-! ### Frames of the two operations that end in one of several states -/

/-- A back-reference step leaves OUT, `out_len`, `target_len` and the events alone. -/
theorem backRef_frame (n : Fin 8) (len : BitVec 17) (dist : BitVec 13) (s : State) :
    (backRef n len dist s).out = s.out ∧ (backRef n len dist s).outLen = s.outLen
      ∧ (backRef n len dist s).targetLen = s.targetLen ∧ (backRef n len dist s).events = s.events := by
  obtain ⟨-, h⟩ | ⟨-, -, h⟩ | ⟨-, -, h⟩ := backRef_cases n len dist s <;> simp [h]

/-- The end of a copy step leaves OUT, `out_len`, `target_len` and the events alone. -/
theorem copyTail_frame (n : Fin 8) (s : State) :
    (copyTail n s).out = s.out ∧ (copyTail n s).outLen = s.outLen
      ∧ (copyTail n s).targetLen = s.targetLen ∧ (copyTail n s).events = s.events := by
  obtain ⟨-, h⟩ | ⟨-, -, h⟩ := copyTail_cases n s <;> simp [h]

/-- The engine takes no event away and adds none. -/
theorem EngineMove.events_eq {s t : State} (h : EngineMove s t) : t.events = s.events := by
  cases h with
  | token len dist width n _ _ => exact (backRef_frame n len dist (s.consume width)).2.2.2
  | copy n _ _ =>
    rw [(copyTail_frame n _).2.2.2, State.appended_events, State.afterOutRead_eq]
  | _ => rfl

/-! ### OUT below `out_len` is written -/

/-- Every position below `out_len` holds a byte (20_memory.md R52). -/
def State.OutWritten (s : State) : Prop := ∀ a, a < s.outLen.toNat → (s.out.read a).isSome = true

/-- Only OUT and `out_len` matter. -/
theorem State.OutWritten.congr {s t : State} (h : s.OutWritten) (ho : t.out = s.out) (hl : t.outLen = s.outLen) :
    t.OutWritten := by
  simpa only [State.OutWritten, ho, hl] using h

/-- OutAppend writes the position it makes `out_len` pass. -/
theorem State.OutWritten.appended {s : State} (h : s.OutWritten) (v : Byte) : (s.appended v).OutWritten := by
  intro a ha
  rw [State.appended_out, Memory.read_write]
  split
  · rfl
  · refine h a ?_
    have hle : (s.outLen + 1).toNat ≤ s.outLen.toNat + 1 := by
      rw [BitVec.toNat_add]
      exact Nat.mod_le _ _
    rw [State.appended_outLen] at ha
    omega

theorem EngineMove.keeps_outWritten {s t : State} (h : EngineMove s t) (hw : s.OutWritten) : t.OutWritten := by
  cases h with
  | lit v n _ _ _ => exact State.OutWritten.appended (s := s.consume 1) hw v
  | token len dist width n _ _ =>
    obtain ⟨hout, hlen, -, -⟩ := backRef_frame n len dist (s.consume width)
    exact hw.congr hout hlen
  | copy n _ _ =>
    obtain ⟨hout, hlen, -, -⟩ := copyTail_frame n
      ((s.afterOutRead (copySource s).toNat).appended (s.outByte (copySource s).toNat))
    have hread : (s.afterOutRead (copySource s).toNat).OutWritten := by
      rw [State.afterOutRead_eq]
      exact hw
    exact (hread.appended _).congr hout hlen
  | _ => exact hw

/-! ### DONE is reached at `target_len` -/

/-- In DONE at least `target_len` bytes have been produced (41_main_loop.md R125, R126). -/
def State.DoneAtTarget (s : State) : Prop := s.phase = .done → s.targetLen ≤ s.outLen

/-- Advance goes to DONE only at the target, from any state. -/
theorem State.advance_doneAtTarget (s : State) (n : Fin 8) : (s.advance n).DoneAtTarget := by
  intro hdone
  rw [State.advance_phase] at hdone
  obtain ⟨-, hle⟩ | ⟨hnot, -⟩ := State.phaseAfter_cases s n
  · exact hle
  · simp [hdone] at hnot

theorem backRef_doneAtTarget (n : Fin 8) (len : BitVec 17) (dist : BitVec 13) (s : State) :
    (backRef n len dist s).DoneAtTarget := by
  obtain ⟨-, h⟩ | ⟨-, -, h⟩ | ⟨-, -, h⟩ := backRef_cases n len dist s <;> rw [h]
  · exact nofun
  · exact s.advance_doneAtTarget n
  · exact nofun

theorem copyTail_doneAtTarget {n : Fin 8} {s : State} (hp : s.phase = .copy n) : (copyTail n s).DoneAtTarget := by
  obtain ⟨-, h⟩ | ⟨-, -, h⟩ := copyTail_cases n s <;> rw [h]
  · exact State.advance_doneAtTarget { s with copyRem := 0 } n
  · exact fun hdone => nomatch hp.symm.trans hdone

theorem EngineMove.keeps_doneAtTarget {s t : State} (h : EngineMove s t) (hd : s.DoneAtTarget) :
    t.DoneAtTarget := by
  cases h with
  | stay _ => exact hd
  | endOfInput _ _ _ => exact nofun
  | badTag _ _ _ _ _ _ => exact nofun
  | header v e len width _ _ =>
    intro hdone
    obtain rfl : len = 0 := by simpa using hdone
    exact BitVec.le_def.2 (Nat.zero_le _)
  | flag _ _ => exact nofun
  | lit v n _ _ _ => exact State.advance_doneAtTarget _ n
  | token len dist width n _ _ => exact backRef_doneAtTarget n len dist _
  | copy n hp _ =>
    refine copyTail_doneAtTarget ?_
    rw [State.appended_phase, State.afterOutRead_eq]
    exact hp

/-! ### Runs of the engine, and what they observe -/

/-- What every engine step keeps, a run keeps: with no event waiting the engine is the only agent. -/
theorem run_keeps_of_engineMove {P : State → Prop} (hP : ∀ s t, EngineMove s t → P s → P t) {k : Nat} {s t : State}
    (hev : s.events = []) (hr : run k s = .next t) (hs : P s) : P t := by
  induction k generalizing s with
  | zero =>
    obtain rfl : s = t := by simpa using hr
    exact hs
  | succ k ih =>
    obtain ⟨u, hstep, hrun⟩ := run_succ_next hr
    have hmove : EngineMove s u := engineStep_move (step_engine hev ▸ hstep)
    exact ih (hmove.events_eq.trans hev) hrun (hP s u hmove hs)

/-- A prefix of OUT whose positions are all written has its length in bytes. -/
theorem outPrefix_of_written {m : Memory} {n : Nat} (h : ∀ a, a < n → (m.read a).isSome = true) :
    ∃ bs, outPrefix m n = some bs ∧ bs.length = n := by
  induction n with
  | zero => exact ⟨[], rfl, rfl⟩
  | succ n ih =>
    obtain ⟨bs, hbs, hlen⟩ := ih fun a ha => h a (by omega)
    obtain ⟨b, hb⟩ := Option.isSome_iff_exists.1 (h n (by omega))
    exact ⟨bs ++ [b], by simp [outPrefix, hbs, hb], by simp [hlen]⟩

/-- A state in DONE whose bytes up to `target_len` are written observes exactly those (41_main_loop.md R128). -/
theorem observe_done {t : State} (hp : t.phase = .done) (hw : t.OutWritten) (hle : t.targetLen ≤ t.outLen) :
    ∃ bs, observe t = some (.ok bs t.inPos t.variant t.ext t.targetLen) ∧ bs.length = t.targetLen.toNat := by
  have hle' : t.targetLen.toNat ≤ t.outLen.toNat := BitVec.le_def.1 hle
  obtain ⟨bs, hbs, hlen⟩ := outPrefix_of_written (m := t.out) fun a ha => hw a (ha.trans_le hle')
  exact ⟨bs, by simp [observe, hp, hbs], hlen⟩

end Sys2Proof.Machine

namespace Sys2Proof

open Sys2Proof.Machine

/-- Settles O50: every engine step keeps the bytes below `out_len` written and enters DONE only with `target_len` bytes
produced, so a run that ends there can read all of `OUT[0 .. target_len-1]`. -/
theorem successYieldsExactlyTargetLenBytes : Obligations.SuccessYieldsExactlyTargetLenBytes := by
  intro s t k hinv hev hbusy hrun hdone
  have hw : t.OutWritten :=
    run_keeps_of_engineMove (fun _ _ h => h.keeps_outWritten) hev hrun (hinv.written hbusy)
  have hd : t.DoneAtTarget :=
    run_keeps_of_engineMove (fun _ _ h => h.keeps_doneAtTarget) hev hrun
      (fun hp => hinv.done_ok hp ▸ BitVec.le_refl _)
  exact observe_done hdone hw (hd hdone)

end Sys2Proof
end

section
/-! The host's register window (10_state.md R33 to R37): which register an access reaches, and what a read and a write of it
do. -/

namespace Sys2Proof.Machine

/-- A CTRL word is START exactly when it is odd (10_state.md R34). -/
theorem decode_ctrlWrite_wordBytes (v : Word) :
    decode .ctrlWrite (wordBytes v) = if v.toNat % 2 = 1 then .ok .start [] else .noCommand := by
  have hbit : (byteOf v 0).getLsbD 0 = decide (v.toNat % 2 = 1) := by
    simp [byteOf, BitVec.getLsbD, Nat.testBit_zero]
  simp only [decode, wordBytes, decodeCtrl, hbit, decide_eq_true_eq]

/-- A write to CTRL issues START or does nothing (10_state.md R34). -/
theorem writeReg_ctrl (s : State) (v : Word) :
    writeReg s v .ctrl = if v.toNat % 2 = 1 then Machine.exec .start s else .next s := by
  rw [writeReg, decode_ctrlWrite_wordBytes]
  split <;> rfl

/-- A write to any other register is ignored (10_state.md R35, R36). -/
theorem writeReg_of_ne_ctrl {r : Reg} (hr : r ≠ .ctrl) (s : State) (v : Word) : writeReg s v r = .next s := by
  cases r with
  | ctrl => exact absurd rfl hr
  | _ => rfl

/-- An access at 0x1C or above, of another size than 4 bytes or not aligned reaches no register (10_state.md R37). -/
theorem regOf_eq_none {c : Config} {addr size : Nat} (h : c.regBase + 0x1C ≤ addr ∨ size ≠ 4 ∨ addr % 4 ≠ 0) :
    regOf c addr size = none := by
  unfold regOf
  split
  · rename_i hok
    obtain ⟨hsize, halign, hle⟩ := hok
    exact regAt_eq_none (by omega)
  · rfl

/-- A read of a mapped register (10_state.md R33, R36). -/
theorem step_regRead {s : State} {rest : List HostEvent} {addr size : Nat} {r : Reg}
    (hr : regOf s.cfg addr size = some r) (hev : s.events = .regRead addr size :: rest) :
    step s = .next (afterRegRead { s with events := rest } r) := by
  simp only [step_event hev, eventStep, hr]

/-- A write to a mapped register. -/
theorem step_regWrite {s : State} {rest : List HostEvent} {addr size : Nat} {v : Word} {r : Reg}
    (hr : regOf s.cfg addr size = some r) (hev : s.events = .regWrite addr size v :: rest) :
    step s = writeReg { s with events := rest } v r := by
  simp only [step_event hev, eventStep, hr]

/-- What a register returns does not depend on what the host does next. -/
theorem readReg_events (s : State) (rest : List HostEvent) (r : Reg) :
    readReg { s with events := rest } r = readReg s r := by
  cases r <;> rfl

/-- The halves of `in_pos` as numbers (10_state.md R33). -/
theorem readReg_inPosLo (s : State) : readReg s .inPosLo = BitVec.ofNat 32 (s.inPos.toNat % 4294967296) := by
  apply BitVec.eq_of_toNat_eq
  simp [readReg]

theorem readReg_inPosHi (s : State) : readReg s .inPosHi = BitVec.ofNat 32 (s.inPos.toNat / 4294967296) := by
  apply BitVec.eq_of_toNat_eq
  simp [readReg, Nat.shiftRight_eq_div_pow]

/-- The content of the register at each mapped offset (10_state.md R33); only offset 0 is CTRL. -/
theorem regAt_of_content {s : State} {off : Nat} {content : Word}
    (h : (off, content) ∈ [(0x00, 0), (0x04, statusWord s), (0x08, if s.hdrValid then s.targetLen else 0),
      (0x0C, s.outLen), (0x10, BitVec.ofNat 32 (s.inPos.toNat % 4294967296)),
      (0x14, BitVec.ofNat 32 (s.inPos.toNat / 4294967296)), (0x18, s.errInfo)]) :
    ∃ r, off % 4 = 0 ∧ regAt off = some r ∧ readReg s r = content ∧ (off ≠ 0 → r ≠ .ctrl) := by
  simp only [List.mem_cons, Prod.mk.injEq, List.not_mem_nil, or_false] at h
  obtain ⟨rfl, rfl⟩ | ⟨rfl, rfl⟩ | ⟨rfl, rfl⟩ | ⟨rfl, rfl⟩ | ⟨rfl, rfl⟩ | ⟨rfl, rfl⟩ | ⟨rfl, rfl⟩ := h
  · exact ⟨.ctrl, rfl, rfl, rfl, fun h => absurd rfl h⟩
  · exact ⟨.status, rfl, rfl, rfl, nofun⟩
  · exact ⟨.targetLen, rfl, rfl, rfl, nofun⟩
  · exact ⟨.outLen, rfl, rfl, rfl, nofun⟩
  · exact ⟨.inPosLo, rfl, rfl, readReg_inPosLo s, nofun⟩
  · exact ⟨.inPosHi, rfl, rfl, readReg_inPosHi s, nofun⟩
  · exact ⟨.errInfo, rfl, rfl, rfl, nofun⟩

end Sys2Proof.Machine

namespace Sys2Proof

open Sys2Proof.Machine

/-- Settles O16: at offset 0 the write reaches CTRL, and the word's bit 0 decides what the decoder answers. -/
theorem ctrlWriteIssuesStart : Obligations.CtrlWriteIssuesStart := by
  intro s rest v
  refine ⟨fun hbase hev => ?_, rfl⟩
  have hreg : regOf s.cfg s.cfg.regBase 4 = some .ctrl := regOf_base hbase (off := 0) rfl
  rw [step_regWrite hreg hev, writeReg_ctrl]
  exact ⟨fun hodd => if_pos hodd, fun heven => if_neg (by omega)⟩

/-- Settles O18: the offset fixes the register, and its content is `readReg` of it. -/
theorem registerMapOfTheHostWindow : Obligations.RegisterMapOfTheHostWindow := by
  intro s rest off content hbase hmem
  obtain ⟨r, halign, hat, hread, hctrl⟩ := regAt_of_content hmem
  have hreg : regOf s.cfg (s.cfg.regBase + off) 4 = some r := (regOf_base hbase halign).trans hat
  refine ⟨fun hev => ⟨_, step_regRead hreg hev, ?_, rfl⟩, fun v hoff hev => ?_⟩
  · rw [← hread, ← readReg_events s rest r]
    rfl
  · rw [step_regWrite hreg hev, writeReg_of_ne_ctrl (hctrl hoff)]

/-- Settles O20: such an access reaches no register. -/
theorem unmappedAccessIsRefused : Obligations.UnmappedAccessIsRefused := by
  intro s rest addr size v h
  have hreg : regOf s.cfg addr size = none := regOf_eq_none h
  exact ⟨fun hev => by simp only [step_event hev, eventStep, hreg],
    fun hev => by simp only [step_event hev, eventStep, hreg]⟩

end Sys2Proof
end

section
/-! What the decoder answers bounds what an element reads: its own width, from bytes that are there. -/

namespace Sys2Proof

@[simp] theorem wellFormed_shortHeader (v : Variant) (n : BitVec 24) :
    (shortHeader v n).wellFormed = decide (n ≠ 0) := by
  cases v <;> rfl

@[simp] theorem wellFormed_extendedHeader (v : Variant) (n : BitVec 32) : (extendedHeader v n).wellFormed = true := by
  cases v <;> rfl

@[simp] theorem width_shortHeader (v : Variant) (n : BitVec 24) : (shortHeader v n).width = 4 := by
  cases v <;> rfl

@[simp] theorem width_extendedHeader (v : Variant) (n : BitVec 32) : (extendedHeader v n).width = 8 := by
  cases v <;> rfl

/-- The decoder splits the bytes into an element of its own width and the rest (30_encoding.md R85). -/
theorem length_of_decode_ok {c : Context} {bs rest : List Byte} {i : Instr} (h : decode c bs = .ok i rest) :
    bs.length = i.width + rest.length := by
  cases c <;> simp only [decode] at h
  case header =>
    unfold decodeHeader decodeLength decodeLen32 at h
    repeat' split at h
    all_goals cases h <;> simp <;> omega
  case flagByte => unfold decodeFlag at h; split at h <;> cases h; simp [Instr.width]; omega
  case literal => unfold decodeLit at h; split at h <;> cases h; simp [Instr.width]; omega
  case token10 => unfold decodeToken10 at h; split at h <;> cases h; simp [Instr.width]; omega
  case token11 =>
    unfold decodeToken11 decodeTierM decodeTierL decodeTierS at h
    repeat' split at h
    all_goals cases h <;> simp [Instr.width] <;> omega
  case copyStep => cases h; simp [Instr.width]
  case ctrlWrite =>
    unfold decodeCtrl at h
    repeat' split at h
    all_goals cases h <;> simp [Instr.width] <;> omega

theorem width_le_of_decode_ok {c : Context} {bs rest : List Byte} {i : Instr} (h : decode c bs = .ok i rest) :
    i.width ≤ bs.length :=
  length_of_decode_ok h ▸ Nat.le_add_right ..

/-- The decoder answers well-formed instructions only: a short header has a non-zero length (30_encoding.md R72) and REF11S
a length field of at least 2 (R78). -/
theorem wellFormed_of_decode_ok {c : Context} {bs rest : List Byte} {i : Instr} (h : decode c bs = .ok i rest) :
    i.wellFormed = true := by
  cases c <;> simp only [decode] at h
  case header =>
    unfold decodeHeader decodeLength decodeLen32 at h
    repeat' split at h
    all_goals cases h <;> simp_all
  case flagByte => unfold decodeFlag at h; split at h <;> cases h; rfl
  case literal => unfold decodeLit at h; split at h <;> cases h; rfl
  case token10 => unfold decodeToken10 at h; split at h <;> cases h; rfl
  case token11 =>
    unfold decodeToken11 decodeTierM decodeTierL decodeTierS at h
    repeat' split at h
    all_goals cases h <;> simp [Instr.wellFormed]
    bv_omega
  case copyStep => cases h; rfl
  case ctrlWrite =>
    unfold decodeCtrl at h
    repeat' split at h
    all_goals cases h <;> rfl

/-- No element ends after more than 8 bytes (30_encoding.md R85). -/
theorem decode_ne_truncated (c : Context) (b0 b1 b2 b3 b4 b5 b6 b7 : Byte) (rest : List Byte) :
    decode c (b0 :: b1 :: b2 :: b3 :: b4 :: b5 :: b6 :: b7 :: rest) ≠ .truncated := by
  cases c <;> simp only [decode]
  case header =>
    simp only [decodeHeader, decodeLength, decodeLen32]
    repeat' split
    all_goals nofun
  case token11 =>
    simp only [decodeToken11, decodeTierM, decodeTierL, decodeTierS]
    repeat' split
    all_goals nofun
  case ctrlWrite =>
    simp only [decodeCtrl]
    split <;> nofun
  all_goals nofun

/-- The input ends inside an element only where fewer than 8 bytes are left. -/
theorem length_of_decode_truncated {c : Context} {bs : List Byte} (h : decode c bs = .truncated) : bs.length < 8 :=
  match bs, h with
  | [], _ | [_], _ | [_, _], _ | [_, _, _], _ | [_, _, _, _], _ | [_, _, _, _, _], _ | [_, _, _, _, _, _], _
  | [_, _, _, _, _, _, _], _ => by simp
  | b0 :: b1 :: b2 :: b3 :: b4 :: b5 :: b6 :: b7 :: rest, h =>
    absurd h (decode_ne_truncated c b0 b1 b2 b3 b4 b5 b6 b7 rest)

theorem Instr.width_le (i : Instr) : i.width ≤ 8 := by
  cases i <;> simp [Instr.width]

end Sys2Proof
end

section
/-! The invariant of 10_state.md R39 along every step of either agent: each update of Machine/Ops.lean has one lemma saying
when it keeps the invariant, and each element and event is put together from those. -/

namespace Sys2Proof.Machine

/-! ### A decode whose header has been accepted -/

/-- What the invariant says of a decode with an accepted header and no error, whatever phase it stands in: the part of
`State.Inv` that the operations between two phases keep. -/
structure State.Producing (s : State) : Prop where
  hdr : s.hdrValid = true
  outLen_le : s.outLen ≤ s.targetLen
  short_ok : s.ext = false → 0 < s.targetLen.toNat ∧ s.targetLen.toNat < 16777216
  no_err : s.err = .none
  input_ok : ∃ bytes, s.input = some bytes ∧ s.inPos.toNat ≤ bytes.length
  written : s.OutWritten
  out_wf : s.out.wf = true ∧ s.out.inside s.cfg.outCapacity = true
  fits : s.targetLen.toNat ≤ s.cfg.outCapacity
  cfg_wf : s.cfg.wf = true

/-- How many bytes are left to read. -/
theorem length_remaining {s : State} {bytes : List Byte} (h : s.input = some bytes) :
    s.remaining.length = bytes.length - s.inPos.toNat := by
  simp [State.remaining, State.inputBytes, h]

/-- An input that reaches k bytes beyond `in_pos` is not left by reading them. -/
theorem input_ok_consume {s : State} {k : Nat} (hk : k ≤ s.remaining.length)
    (h : ∃ bytes, s.input = some bytes ∧ s.inPos.toNat ≤ bytes.length) :
    ∃ bytes, s.input = some bytes ∧ (s.inPos + BitVec.ofNat 64 k).toNat ≤ bytes.length := by
  obtain ⟨bytes, hb, hle⟩ := h
  refine ⟨bytes, hb, ?_⟩
  rw [length_remaining hb] at hk
  rw [BitVec.toNat_add, BitVec.toNat_ofNat]
  omega

section
variable {s : State}

theorem Phase.busy_of_decoding {p : Phase} (h : p.decoding = true) : p.busy = true := by
  cases p <;> simp_all [Phase.busy, Phase.decoding]

theorem State.Inv.err_eq_none (h : s.Inv) (hp : s.phase ≠ .error) : s.err = .none := by
  by_contra he
  exact hp (h.err_ok.1 he)

theorem State.Inv.producing (h : s.Inv) (hd : s.phase.decoding = true) : s.Producing where
  hdr := h.hdr_ok (.inl hd)
  outLen_le := h.outLen_le (h.hdr_ok (.inl hd))
  short_ok := h.short_ok (h.hdr_ok (.inl hd))
  no_err := h.err_eq_none fun he => by simp [he, Phase.decoding] at hd
  input_ok := h.input_ok (Phase.busy_of_decoding hd)
  written := h.written (Phase.busy_of_decoding hd)
  out_wf := h.out_wf
  fits := h.fits (h.hdr_ok (.inl hd))
  cfg_wf := h.cfg_wf

/-- From there the invariant is what the phase p adds. -/
theorem State.Producing.inv (h : s.Producing) {p : Phase} (hp : s.phase = p)
    (hhdr : p.decoding = true ∨ p = .done) (hlt : p.decoding = true → s.outLen < s.targetLen)
    (hcopy : ∀ n, p = .copy n →
      1 ≤ s.copyDist ∧ s.copyDist ≤ 4096 ∧ wideDistance s.copyDist ≤ s.outLen ∧ 1 ≤ s.copyRem)
    (hdone : p = .done → s.outLen = s.targetLen) : s.Inv := by
  subst hp
  have hne : s.phase ≠ .error ∧ s.phase ≠ .idle ∧ s.phase ≠ .header := by
    refine ⟨?_, ?_, ?_⟩ <;> intro hp <;> simp [hp, Phase.decoding] at hhdr
  exact
    { outLen_le := fun _ => h.outLen_le
      outLen_lt := hlt
      copy_ok := hcopy
      done_ok := hdone
      hdr_ok := fun _ => h.hdr
      no_hdr := fun hn => absurd hn (by simp [hne])
      no_hdr_zero := fun hn => by simp [h.hdr] at hn
      short_ok := fun _ => h.short_ok
      err_ok := by simp [h.no_err, hne]
      input_ok := fun _ => h.input_ok
      written := fun _ => h.written
      out_wf := h.out_wf
      fits := fun _ => h.fits
      cfg_wf := h.cfg_wf }

theorem State.Producing.consume (h : s.Producing) {k : Nat} (hk : k ≤ s.remaining.length) : (s.consume k).Producing :=
  { h with input_ok := input_ok_consume hk h.input_ok }

/-- OutAppend below the target. -/
theorem State.Producing.appended (h : s.Producing) (hlt : s.outLen < s.targetLen) (v : Byte) :
    (s.appended v).Producing :=
  { h with
    outLen_le := by
      simp only [State.appended_outLen, State.appended_targetLen]
      bv_omega
    written := h.written.appended v
    out_wf := ⟨Memory.wf_write _ v h.out_wf.1,
      Memory.inside_write v (Nat.lt_of_lt_of_le (BitVec.lt_def.1 hlt) h.fits) h.out_wf.2⟩ }

/-- Advance: at the target the decode is done, below it the decode goes on with no copy pending. -/
theorem State.Producing.advance (h : s.Producing) (n : Fin 8) : (s.advance n).Inv := by
  have h' : (s.advance n).Producing := { h with }
  obtain ⟨hp, hle⟩ | ⟨hp | ⟨m, hp⟩, hlt⟩ := s.phaseAfter_cases n
  · exact h'.inv hp (.inr rfl) nofun nofun fun _ => BitVec.le_antisymm h.outLen_le hle
  · exact h'.inv hp (.inl rfl) (fun _ => hlt) nofun nofun
  · exact h'.inv hp (.inl rfl) (fun _ => hlt) nofun nofun

theorem State.Producing.afterOutRead (h : s.Producing) (a : Nat) : (s.afterOutRead a).Producing := by
  rw [State.afterOutRead_eq]
  exact { h with }

/-- The end of a copy step: the copy goes on only with a byte to copy and room below the target. -/
theorem State.Producing.copyTail (h : s.Producing) {n : Fin 8} (hp : s.phase = .copy n)
    (hdist : 1 ≤ s.copyDist ∧ s.copyDist ≤ 4096 ∧ wideDistance s.copyDist ≤ s.outLen) : (copyTail n s).Inv := by
  obtain ⟨-, heq⟩ | ⟨hrem, hne, heq⟩ := copyTail_cases n s <;> rw [heq]
  · have hspent : State.Producing { s with copyRem := 0 } := { h with }
    exact hspent.advance n
  · have hmore : State.Producing { s with copyRem := s.copyRem - 1 } := { h with }
    have hlt : s.outLen < s.targetLen := by have := h.outLen_le; bv_omega
    obtain ⟨hd1, hd2, hdle⟩ := hdist
    have hleft : 1 ≤ s.copyRem - 1 := by bv_omega
    exact hmore.inv hp (.inl rfl) (fun _ => hlt) (fun _ _ => ⟨hd1, hd2, hdle, hleft⟩) nofun

/-! ### What keeps the invariant -/

/-- An element that ends in an error: `in_pos` may stand anywhere once the phase is ERROR (60_exceptions.md R204). -/
theorem State.Inv.consume_raise (h : s.Inv) (k : Nat) {e : ErrKind} (he : e ≠ .none) (info : BitVec 32) :
    ((s.consume k).raise e info).Inv :=
  { h with
    outLen_lt := nofun
    copy_ok := nofun
    done_ok := nofun
    hdr_ok := nofun
    no_hdr := nofun
    err_ok := by simp [he]
    input_ok := nofun
    written := nofun }

/-- START: nothing of the decode before is left but OUT (41_main_loop.md R120). -/
theorem State.Inv.started (h : s.Inv) (bytes : List Byte) : (s.started bytes).Inv where
  outLen_le := nofun
  outLen_lt := nofun
  copy_ok := nofun
  done_ok := nofun
  hdr_ok := nofun
  no_hdr _ := rfl
  no_hdr_zero _ := ⟨rfl, rfl, rfl, rfl⟩
  short_ok := nofun
  err_ok := by simp
  input_ok _ := ⟨bytes, rfl, Nat.zero_le _⟩
  written _ a ha := absurd ha (Nat.not_lt_zero a)
  out_wf := h.out_wf
  fits := nofun
  cfg_wf := h.cfg_wf

/-- The state after reset (10_state.md R40). -/
theorem State.reset_inv : State.reset.Inv where
  outLen_le := nofun
  outLen_lt := nofun
  copy_ok := nofun
  done_ok := nofun
  hdr_ok := nofun
  no_hdr _ := rfl
  no_hdr_zero _ := ⟨rfl, rfl, rfl, rfl⟩
  short_ok := nofun
  err_ok := by decide
  input_ok := nofun
  written := nofun
  out_wf := ⟨rfl, rfl⟩
  fits := nofun
  cfg_wf := by decide

/-- The reset event: of what stands outside the block and stays, the invariant speaks of the parameters only. -/
theorem State.Inv.afterReset (h : s.Inv) : s.afterReset.Inv :=
  { State.reset_inv with
    fits := nofun
    cfg_wf := h.cfg_wf }

/-- A header that fits OUT is accepted before any byte of OUT is produced. -/
theorem State.Inv.headerAccepted (h : s.Inv) (hp : s.phase = .header) {k : Nat} (hk : k ≤ s.remaining.length)
    (v : Variant) {e : Bool} {len : BitVec 32} (hfit : len.toNat ≤ s.cfg.outCapacity)
    (hshort : e = false → 0 < len.toNat ∧ len.toNat < 16777216) : ((s.consume k).headerAccepted v e len).Inv := by
  obtain ⟨-, -, -, hzero⟩ := h.no_hdr_zero (h.no_hdr (.inr hp))
  have hprod : ((s.consume k).headerAccepted v e len).Producing :=
    { hdr := rfl
      outLen_le := by
        change s.outLen ≤ len
        bv_omega
      short_ok := hshort
      no_err := h.err_eq_none (by simp [hp])
      input_ok := input_ok_consume hk (h.input_ok (by simp [hp, Phase.busy]))
      written := fun a ha => by simp [hzero] at ha
      out_wf := h.out_wf
      fits := hfit
      cfg_wf := h.cfg_wf }
  by_cases hlen : len = 0
  · exact hprod.inv (if_pos hlen) (.inr rfl) nofun nofun fun _ => hzero.trans hlen.symm
  · refine hprod.inv (if_neg hlen) (.inl rfl) (fun _ => ?_) nofun nofun
    change s.outLen < len
    bv_omega

/-- FLAG: the next flag bits are taken below the target, as the flag byte was. -/
theorem State.Inv.flagLoaded (h : s.Inv) (hp : s.phase = .needFlag) (hk : 1 ≤ s.remaining.length) (f : Byte) :
    { s.consume 1 with flag := f, phase := .bit 0 : State }.Inv := by
  have hd : s.phase.decoding = true := by simp [hp, Phase.decoding]
  have hprod : { s.consume 1 with flag := f, phase := .bit 0 : State }.Producing :=
    { (h.producing hd).consume hk with }
  exact hprod.inv rfl (.inl rfl) (fun _ => h.outLen_lt hd) nofun nofun

/-- LIT: a byte is appended below the target, so that Advance finds `out_len` at the target at most. -/
theorem State.Inv.literal (h : s.Inv) {n : Fin 8} (hp : s.phase = .bit n) (hk : 1 ≤ s.remaining.length) (v : Byte) :
    (((s.consume 1).appended v).advance n).Inv := by
  have hd : s.phase.decoding = true := by simp [hp, Phase.decoding]
  exact (((h.producing hd).consume hk).appended (h.outLen_lt hd) v).advance n

/-- A token: its distance is 1 to 4096 (30_encoding.md R81), and the copy starts only with bytes to copy, from a position
already written. -/
theorem State.Inv.backRef (h : s.Inv) {n : Fin 8} (hp : s.phase = .bit n) {k : Nat} (hk : k ≤ s.remaining.length)
    (len : BitVec 17) (d : BitVec 12) : (backRef n len (distanceOf d) (s.consume k)).Inv := by
  have hd : s.phase.decoding = true := by simp [hp, Phase.decoding]
  have hprod := (h.producing hd).consume hk
  obtain ⟨-, heq⟩ | ⟨-, -, heq⟩ | ⟨hle, hlen, heq⟩ := backRef_cases n len (distanceOf d) (s.consume k) <;> rw [heq]
  · exact h.consume_raise k (by decide) _
  · exact hprod.advance n
  · have hload : ((s.consume k).loadCopy n len (distanceOf d)).Producing := { hprod with }
    have hdist := toNat_distanceOf d
    have hnear : 1 ≤ distanceOf d ∧ distanceOf d ≤ 4096 := by bv_omega
    have hleft : 1 ≤ len := by bv_omega
    exact hload.inv rfl (.inl rfl) (fun _ => h.outLen_lt hd) (fun _ _ => ⟨hnear.1, hnear.2, hle, hleft⟩) nofun

/-- COPY: a byte is appended below the target, and the distance reaches no further back than before. -/
theorem State.Inv.copied (h : s.Inv) {n : Fin 8} (hp : s.phase = .copy n) :
    (copyTail n ((s.afterOutRead (copySource s).toNat).appended (s.outByte (copySource s).toNat))).Inv := by
  have hd : s.phase.decoding = true := by simp [hp, Phase.decoding]
  have hlt := h.outLen_lt hd
  have hread := (h.producing hd).afterOutRead (copySource s).toNat
  obtain ⟨hd1, hd2, hdle, -⟩ := h.copy_ok n hp
  rw [State.afterOutRead_eq] at hread ⊢
  have hdle' : wideDistance s.copyDist ≤ s.outLen + 1 := by bv_omega
  exact (hread.appended hlt _).copyTail hp ⟨hd1, hd2, hdle'⟩

theorem State.Inv.headerStep (h : s.Inv) {v : Variant} {e : Bool} {len : BitVec 32} {w : Nat} {t : State}
    (hk : w ≤ s.remaining.length) (hshort : e = false → 0 < len.toNat ∧ len.toNat < 16777216)
    (hx : headerStep v e len w s = .next t) : t.Inv := by
  obtain ⟨hp, hfit, rfl⟩ := headerStep_next.1 hx
  exact h.headerAccepted hp hk v hfit hshort

theorem State.Inv.tokenStep (h : s.Inv) {v : Variant} {len : BitVec 17} {d : BitVec 12} {w : Nat} {t : State}
    (hk : w ≤ s.remaining.length) (hx : tokenStep v len (distanceOf d) w s = .next t) : t.Inv := by
  obtain ⟨n, hp, -, -, rfl⟩ := tokenStep_next.1 hx
  exact h.backRef hp hk len d

theorem State.Inv.start (h : s.Inv) (bytes : List Byte) : (s.start bytes).Inv := by
  unfold State.start
  split
  · exact h
  · exact h.started bytes

theorem toNat_targetOfLen24 (n : BitVec 24) : (targetOfLen24 n).toNat = n.toNat := by
  have := n.isLt
  simp [targetOfLen24]
  omega

/-- A non-zero 24-bit length is a legal short `target_len` (10_state.md R23, 30_encoding.md R72). -/
theorem targetOfLen24_short {n : BitVec 24} (h : n ≠ 0) :
    0 < (targetOfLen24 n).toNat ∧ (targetOfLen24 n).toNat < 16777216 := by
  rw [toNat_targetOfLen24]
  bv_omega

/-- Every instruction keeps the invariant where its own bytes are there to read. -/
theorem State.Inv.exec (h : s.Inv) {i : Instr} (hwf : i.wellFormed = true) (hk : i.width ≤ s.remaining.length)
    {t : State} (hx : exec i s = .next t) : t.Inv := by
  cases i with
  | hdr10 len24 => exact h.headerStep hk (fun _ => targetOfLen24_short (of_decide_eq_true hwf)) hx
  | hdr11 len24 => exact h.headerStep hk (fun _ => targetOfLen24_short (of_decide_eq_true hwf)) hx
  | hdr10x len32 => exact h.headerStep (e := true) hk nofun hx
  | hdr11x len32 => exact h.headerStep (e := true) hk nofun hx
  | flag f =>
    obtain ⟨hp, rfl⟩ := execFlag_next.1 hx
    exact h.flagLoaded hp hk f
  | lit v =>
    obtain ⟨n, hp, -, -, rfl⟩ := execLit_next.1 hx
    exact h.literal hp hk v
  | ref10 l d => exact h.tokenStep hk hx
  | ref11s l d => exact h.tokenStep hk hx
  | ref11m l d => exact h.tokenStep hk hx
  | ref11l l d => exact h.tokenStep hk hx
  | copy =>
    obtain ⟨n, hp, -, rfl⟩ := execCopy_next.1 hx
    exact h.copied hp
  | start =>
    obtain rfl : s.start s.port = t := by simpa [Machine.exec, execStart] using hx
    exact h.start s.port

/-- An engine step: the decoder answers well-formed instructions whose bytes are there, or the step raises. -/
theorem State.Inv.engineStep (h : s.Inv) {t : State} (hx : engineStep s = .next t) : t.Inv := by
  obtain ⟨-, rfl⟩ | ⟨c, i, rest, -, hd, hi⟩ | ⟨c, -, -, rfl⟩ | ⟨tag, rest, -, -, -, -, rfl⟩ := engineStep_next hx
  · exact h
  · exact h.exec (wellFormed_of_decode_ok hd) (width_le_of_decode_ok hd) hi
  · exact h.consume_raise _ (by decide) _
  · exact h.consume_raise _ (by decide) _

/-! ### The host's events -/

theorem State.Inv.writeReg (h : s.Inv) {v : Word} {r : Reg} {t : State} (hx : writeReg s v r = .next t) : t.Inv := by
  by_cases hr : r = .ctrl
  · subst hr
    rw [writeReg_ctrl] at hx
    split at hx
    · obtain rfl : s.start s.port = t := by simpa [Machine.exec, execStart] using hx
      exact h.start s.port
    · cases hx
      exact h
  · rw [writeReg_of_ne_ctrl hr] at hx
    cases hx
    exact h

/-- A host read of OUT changes the reply and the draw counter only (20_memory.md R63). -/
theorem State.Inv.hostOutRead (h : s.Inv) {pos : BitVec 32} {t : State} (hx : hostOutRead s pos = .next t) : t.Inv := by
  unfold Machine.hostOutRead at hx
  split at hx
  · cases hx
  · split at hx
    · rw [State.afterOutRead_eq] at hx
      cases hx
      exact { h with }
    · cases hx
      exact { h with }

/-- A host write of OUT forgets one position, and only while no decode needs it (20_memory.md R63, log entry 8). -/
theorem State.Inv.hostOutWrite (h : s.Inv) {pos : BitVec 32} {t : State} (hx : hostOutWrite s pos = .next t) :
    t.Inv := by
  unfold Machine.hostOutWrite at hx
  split at hx
  · cases hx
  · rename_i hbusy
    split at hx
    · cases hx
    · cases hx
      exact { h with
        written := fun hb => absurd hb hbusy
        out_wf := ⟨Memory.wf_forget _ h.out_wf.1, Memory.inside_forget _ h.out_wf.2⟩ }

/-- Presenting a stream changes the port, not the bound input. -/
theorem State.Inv.hostPresent (h : s.Inv) {bytes : List Byte} {t : State} (hx : hostPresent s bytes = .next t) :
    t.Inv := by
  unfold Machine.hostPresent at hx
  split at hx
  · cases hx
  · cases hx
    exact { h with }

theorem State.Inv.eventStep (h : s.Inv) {e : HostEvent} {t : State} (hx : eventStep e s = .next t) : t.Inv := by
  cases e with
  | engine => exact h.engineStep hx
  | present bytes => exact h.hostPresent hx
  | regRead addr size =>
    simp only [Machine.eventStep] at hx
    split at hx
    · cases hx
      exact { h with }
    · cases hx
  | regWrite addr size v =>
    simp only [Machine.eventStep] at hx
    split at hx
    · exact h.writeReg hx
    · cases hx
  | outRead pos => exact h.hostOutRead hx
  | outWrite pos b => exact h.hostOutWrite hx
  | reset =>
    cases hx
    exact h.afterReset

end

end Sys2Proof.Machine

namespace Sys2Proof

open Sys2Proof.Machine

/-- Settles O46, the step taken apart by the agent that moves: the engine (`State.Inv.engineStep`, an element at a time) or
the host (`State.Inv.eventStep`, an event at a time). -/
theorem everyStepKeepsTheInvariant : Obligations.EveryStepKeepsTheInvariant := by
  intro s t h hstep
  cases hev : s.events with
  | nil => exact h.engineStep (step_engine hev ▸ hstep)
  | cons e rest =>
    have h' : State.Inv { s with events := rest } := { h with }
    exact h'.eventStep (step_event hev ▸ hstep)

/-- Settles O45: OUT is empty, no header has been read and no decode runs. -/
theorem resetMeetsTheInvariant : Obligations.ResetMeetsTheInvariant := State.reset_inv

end Sys2Proof
end

section
/-! The STATUS word as a number (10_state.md R35). -/

namespace Sys2Proof.Machine

/-- The fields of STATUS at their bits. -/
theorem toNat_statusWord (s : State) :
    (statusWord s).toNat = (stateCode s.phase).toNat + 4 * s.err.code.toNat + 16 * s.hdrValid.toNat
      + 32 * (s.hdrValid && s.variant.bit).toNat + 64 * (s.hdrValid && s.ext).toNat := by
  simp only [statusWord, toNat_append_eq, BitVec.toNat_ofBool, BitVec.ofNat_eq_ofNat, BitVec.toNat_zero]
  omega

/-- STATUS.STATE is the two lowest bits. -/
theorem statusWord_mod_four (s : State) : (statusWord s).toNat % 4 = (stateCode s.phase).toNat := by
  have := (stateCode s.phase).isLt
  rw [toNat_statusWord]
  omega

theorem stateCode_eq_three (p : Phase) : (stateCode p).toNat = 3 ↔ p = .error := by
  cases p <;> simp [stateCode]

/-- Each STATE value is that of a state that meets the invariant: after reset, after a START, after a header of length 0, and
after an error. -/
theorem exists_inv_of_stateCode {k : Nat} (hk : k < 4) : ∃ s : State, s.Inv ∧ (stateCode s.phase).toNat = k := by
  have hstarted : (State.reset.started []).Inv := State.reset_inv.started []
  match k with
  | 0 => exact ⟨_, State.reset_inv, rfl⟩
  | 1 => exact ⟨_, hstarted, rfl⟩
  | 2 =>
    exact ⟨_, hstarted.headerAccepted (len := 0) (e := true) rfl (Nat.zero_le _) .lzss10 (Nat.zero_le _) nofun, rfl⟩
  | 3 => exact ⟨_, hstarted.consume_raise 0 (e := .unexpectedEof) (by decide) 0, rfl⟩

end Sys2Proof.Machine

namespace Sys2Proof

open Sys2Proof.Machine

/-- Settles O19: the fields are summed at their bits, and STATE alone stands below 4. -/
theorem statusWordFields : Obligations.StatusWordFields := by
  refine ⟨fun s => ?_, fun s h => ?_, fun k hk => ?_⟩
  · rw [toNat_statusWord]
    congr
    · cases s.phase <;> rfl
    · cases s.err <;> rfl
    · cases s.hdrValid <;> rfl
    · cases s.hdrValid <;> cases s.variant <;> rfl
    · cases s.hdrValid <;> cases s.ext <;> rfl
  · rw [statusWord_mod_four, stateCode_eq_three]
    exact h.err_ok
  · obtain ⟨s, hinv, hcode⟩ := exists_inv_of_stateCode hk
    exact ⟨s, hinv, (statusWord_mod_four s).trans hcode⟩

end Sys2Proof
end

section
/-! How far `in_pos` moves in an engine step (10_state.md R27). -/

namespace Sys2Proof.Machine

theorem inPos_of_headerStep {v : Variant} {e : Bool} {len : BitVec 32} {w : Nat} {s t : State}
    (h : headerStep v e len w s = .next t) : t.inPos = s.inPos + BitVec.ofNat 64 w := by
  obtain ⟨-, -, rfl⟩ := headerStep_next.1 h
  rfl

theorem inPos_of_tokenStep {v : Variant} {len : BitVec 17} {dist : BitVec 13} {w : Nat} {s t : State}
    (h : tokenStep v len dist w s = .next t) : t.inPos = s.inPos + BitVec.ofNat 64 w := by
  obtain ⟨n, -, -, -, rfl⟩ := tokenStep_next.1 h
  obtain ⟨-, heq⟩ | ⟨-, -, heq⟩ | ⟨-, -, heq⟩ := backRef_cases n len dist (s.consume w) <;> rw [heq] <;> rfl

/-- Every instruction but START moves `in_pos` by its own width (30_encoding.md R85). -/
theorem inPos_of_exec {i : Instr} {s t : State} (hi : i ≠ .start) (h : exec i s = .next t) :
    t.inPos = s.inPos + BitVec.ofNat 64 i.width := by
  cases i with
  | hdr10 len24 => exact inPos_of_headerStep h
  | hdr11 len24 => exact inPos_of_headerStep h
  | hdr10x len32 => exact inPos_of_headerStep h
  | hdr11x len32 => exact inPos_of_headerStep h
  | flag f =>
    obtain ⟨-, rfl⟩ := execFlag_next.1 h
    rfl
  | lit v =>
    obtain ⟨n, -, -, -, rfl⟩ := execLit_next.1 h
    rfl
  | ref10 l d => exact inPos_of_tokenStep h
  | ref11s l d => exact inPos_of_tokenStep h
  | ref11m l d => exact inPos_of_tokenStep h
  | ref11l l d => exact inPos_of_tokenStep h
  | copy =>
    obtain ⟨n, -, -, rfl⟩ := execCopy_next.1 h
    rw [State.afterOutRead_eq]
    obtain ⟨-, heq⟩ | ⟨-, -, heq⟩ := copyTail_cases n _ <;> rw [heq] <;> simp [Instr.width]
  | start => exact absurd rfl hi

/-- The engine never decodes START: that is the host's (10_state.md R34). -/
theorem ne_start_of_selected {s : State} {c : Context} {bs rest : List Byte} {i : Instr} (hc : nextContext s = some c)
    (hd : decode c bs = .ok i rest) : i ≠ .start := by
  rintro rfl
  obtain rfl : Context.ctrlWrite = c := context_of_decode_ok hd
  exact nextContext_ne_ctrlWrite s hc

/-- An engine step reads at most 8 bytes, and only bytes that are there. -/
theorem engineStep_reads {s t : State} (h : engineStep s = .next t) :
    ∃ k, k ≤ 8 ∧ k ≤ s.remaining.length ∧ t.inPos = s.inPos + BitVec.ofNat 64 k := by
  obtain ⟨-, rfl⟩ | ⟨c, i, rest, hc, hd, hx⟩ | ⟨c, -, hd, rfl⟩ | ⟨tag, rest, -, hr, -, -, rfl⟩ := engineStep_next h
  · exact ⟨0, by simp⟩
  · have hpos := inPos_of_exec (ne_start_of_selected hc hd) hx
    exact ⟨i.width, i.width_le, width_le_of_decode_ok hd, hpos⟩
  · exact ⟨s.remaining.length, (length_of_decode_truncated hd).le, le_rfl, rfl⟩
  · exact ⟨1, by simp, by simp [hr], rfl⟩

end Sys2Proof.Machine

namespace Sys2Proof

open Sys2Proof.Machine

/-- Settles O48: what a step reads ends inside the input, so `in_pos` does not wrap. -/
theorem inputPositionOnlyAdvances : Obligations.InputPositionOnlyAdvances := by
  intro s t bytes hin hlen hstep
  obtain ⟨k, hk, hrem, hpos⟩ := engineStep_reads hstep
  rw [length_remaining hin] at hrem
  have hnat : t.inPos.toNat = s.inPos.toNat + k := by
    rw [hpos, BitVec.toNat_add, BitVec.toNat_ofNat]
    omega
  omega

end Sys2Proof
end

section
/-! Noninterference of OUT (20_memory.md R65): with any other OUT and draw counter every operation of the engine has the same
effect on every other field. -/

namespace Sys2Proof.Machine

/-- The state with another OUT and another draw counter. -/
def State.withOut (s : State) (m : Memory) (j : Nat) : State := { s with out := m, draws := j }

/-- A back-reference step depends on neither OUT nor the draw counter (41_main_loop.md R124). -/
theorem backRef_withOut (n : Fin 8) (len : BitVec 17) (dist : BitVec 13) (s : State) (m : Memory) (j : Nat) :
    backRef n len dist (s.withOut m j) = (backRef n len dist s).withOut m j := by
  simp only [backRef, apply_ite (State.withOut · m j)]
  rfl

/-- Nor does the end of a copy step (42_copy_engine.md R140). -/
theorem copyTail_withOut (n : Fin 8) (s : State) (m : Memory) (j : Nat) :
    copyTail n (s.withOut m j) = (copyTail n s).withOut m j := by
  simp only [copyTail, apply_ite (State.withOut · m j)]
  rfl

/-- MemRead and OutAppend: which byte was read and stored, `v` or `w`, shows in OUT and the draw counter only. -/
theorem afterOutRead_appended_withOut (s : State) (a : Nat) (v w : Byte) (m : Memory) (j : Nat) :
    ∃ m' j', ((s.withOut m j).afterOutRead a).appended w = ((s.afterOutRead a).appended v).withOut m' j' := by
  refine ⟨m.write s.outLen.toNat w, ((s.withOut m j).afterOutRead a).draws, ?_⟩
  rw [State.afterOutRead_eq s, State.afterOutRead_eq (s.withOut m j)]
  rfl

theorem headerStep_withOut {v : Variant} {e : Bool} {len : BitVec 32} {w : Nat} {s t : State}
    (h : headerStep v e len w s = .next t) (m : Memory) (j : Nat) :
    ∃ m' j', headerStep v e len w (s.withOut m j) = .next (t.withOut m' j') := by
  obtain ⟨hp, hfit, rfl⟩ := headerStep_next.1 h
  exact ⟨m, j, headerStep_next.2 ⟨hp, hfit, rfl⟩⟩

theorem tokenStep_withOut {v : Variant} {len : BitVec 17} {dist : BitVec 13} {w : Nat} {s t : State}
    (h : tokenStep v len dist w s = .next t) (m : Memory) (j : Nat) :
    ∃ m' j', tokenStep v len dist w (s.withOut m j) = .next (t.withOut m' j') := by
  obtain ⟨n, hp, hf, hv, rfl⟩ := tokenStep_next.1 h
  exact ⟨m, j, tokenStep_next.2 ⟨n, hp, hf, hv, (backRef_withOut n len dist (s.consume w) m j).symm⟩⟩

theorem start_withOut (s : State) (bytes : List Byte) (m : Memory) (j : Nat) :
    (s.withOut m j).start bytes = (s.start bytes).withOut m j := by
  simp only [State.start, apply_ite (State.withOut · m j)]
  rfl

/-- Every instruction that answers with one OUT answers with any other, and leaves the same in every other field. -/
theorem exec_withOut {i : Instr} {s t : State} (h : exec i s = .next t) (m : Memory) (j : Nat) :
    ∃ m' j', exec i (s.withOut m j) = .next (t.withOut m' j') := by
  cases i with
  | hdr10 len24 => exact headerStep_withOut h m j
  | hdr11 len24 => exact headerStep_withOut h m j
  | hdr10x len32 => exact headerStep_withOut h m j
  | hdr11x len32 => exact headerStep_withOut h m j
  | flag f =>
    obtain ⟨hp, rfl⟩ := execFlag_next.1 h
    exact ⟨m, j, execFlag_next.2 ⟨hp, rfl⟩⟩
  | lit v =>
    obtain ⟨n, hp, hf, hfit, rfl⟩ := execLit_next.1 h
    exact ⟨m.write s.outLen.toNat v, j, execLit_next.2 ⟨n, hp, hf, hfit, rfl⟩⟩
  | ref10 l d => exact tokenStep_withOut h m j
  | ref11s l d => exact tokenStep_withOut h m j
  | ref11m l d => exact tokenStep_withOut h m j
  | ref11l l d => exact tokenStep_withOut h m j
  | copy =>
    obtain ⟨n, hp, hfit, rfl⟩ := execCopy_next.1 h
    obtain ⟨m', j', hstored⟩ := afterOutRead_appended_withOut s (copySource s).toNat
      (s.outByte (copySource s).toNat) ((s.withOut m j).outByte (copySource s).toNat) m j
    refine ⟨m', j', execCopy_next.2 ⟨n, hp, hfit, ?_⟩⟩
    rw [← copyTail_withOut, ← hstored]
    rfl
  | start =>
    cases h
    exact ⟨m, j, congrArg _ (start_withOut s s.port m j)⟩

/-- What the decoder answered is run alike with any OUT. -/
theorem runDecoded_withOut {d : Decoded} {s t : State} (h : runDecoded s d = .next t) (m : Memory) (j : Nat) :
    ∃ m' j', runDecoded (s.withOut m j) d = .next (t.withOut m' j') := by
  cases d with
  | ok i rest => exact exec_withOut h m j
  | truncated => cases h; exact ⟨m, j, rfl⟩
  | invalidTag tag => cases h; exact ⟨m, j, rfl⟩
  | noCommand => cases h; exact ⟨m, j, rfl⟩

/-- Where no element is selected the engine takes no step (41_main_loop.md R127). -/
theorem engineStep_of_none {s : State} (hc : nextContext s = none) : engineStep s = .next s := by
  simp only [engineStep, hc]

/-- Otherwise it runs what the decoder reads at `in_pos` in the context that is selected. -/
theorem engineStep_of_some {s : State} {c : Context} (hc : nextContext s = some c) :
    engineStep s = runDecoded s (decode c s.remaining) := by
  simp only [engineStep, hc]

/-- The element is selected, and its bytes are read, without a look at OUT (30_encoding.md R70). -/
theorem engineStep_withOut {s t : State} (h : engineStep s = .next t) (m : Memory) (j : Nat) :
    ∃ m' j', engineStep (s.withOut m j) = .next (t.withOut m' j') := by
  have hctx : nextContext (s.withOut m j) = nextContext s := rfl
  cases hc : nextContext s with
  | none =>
    obtain rfl : s = t := by simpa [engineStep_of_none hc] using h
    exact ⟨m, j, engineStep_of_none (hctx.trans hc)⟩
  | some c =>
    rw [engineStep_of_some hc] at h
    rw [engineStep_of_some (hctx.trans hc)]
    exact runDecoded_withOut h m j

end Sys2Proof.Machine

namespace Sys2Proof

open Sys2Proof.Machine

/-- Settles O52: context and bytes do not depend on OUT, and the byte that a copy reads goes to OUT only. -/
theorem outNeverSteersTheDecode : Obligations.OutNeverSteersTheDecode := by
  intro s t m j h
  obtain ⟨m', j', h'⟩ := engineStep_withOut h m j
  exact ⟨t.withOut m' j', h', rfl⟩

end Sys2Proof
end

section
/-! The bytes of a header, run by the engine (20_memory.md R54, 30_encoding.md R72, R73). -/

namespace Sys2Proof.Machine

/-- The decoder reads the length of a header after the tag of its variant (40_header.md R105). -/
theorem decode_header_tagOf (v : Variant) (bs : List Byte) : decode .header (tagOf v :: bs) = decodeLength v bs := by
  cases v <;> rfl

theorem exec_shortHeader (v : Variant) (n : BitVec 24) (s : State) :
    exec (shortHeader v n) s = headerStep v false (targetOfLen24 n) 4 s := by
  cases v <;> rfl

theorem exec_extendedHeader (v : Variant) (n : BitVec 32) (s : State) :
    exec (extendedHeader v n) s = headerStep v true n 8 s := by
  cases v <;> rfl

variable {s : State} {v : Variant} {b1 b2 b3 : Byte} {rest : List Byte}

/-- In HEADER the engine runs what stands after the tag. -/
theorem engineStep_header {bs : List Byte} (hp : s.phase = .header) (hr : s.remaining = tagOf v :: bs) :
    engineStep s = runDecoded s (decodeLength v bs) := by
  have hc : nextContext s = some .header := by simp only [nextContext, hp]
  rw [engineStep_of_some hc, hr, decode_header_tagOf]

/-- The short form, for a length that is not 0 and fits OUT. -/
theorem engineStep_shortHeader (hp : s.phase = .header) (hr : s.remaining = tagOf v :: b1 :: b2 :: b3 :: rest)
    (hlen : le24 b1 b2 b3 ≠ 0) (hfit : (le24 b1 b2 b3).toNat ≤ s.cfg.outCapacity) :
    engineStep s = .next ((s.consume 4).headerAccepted v false (targetOfLen24 (le24 b1 b2 b3))) := by
  rw [engineStep_header hp hr, decodeLength, if_neg hlen, runDecoded, exec_shortHeader]
  exact headerStep_next.2 ⟨hp, (toNat_targetOfLen24 _).trans_le hfit, rfl⟩

/-- The extended form, for a length that fits OUT. -/
theorem engineStep_extendedHeader {c0 c1 c2 c3 : Byte} (hp : s.phase = .header)
    (hr : s.remaining = tagOf v :: b1 :: b2 :: b3 :: c0 :: c1 :: c2 :: c3 :: rest) (hlen : le24 b1 b2 b3 = 0)
    (hfit : (le32 c0 c1 c2 c3).toNat ≤ s.cfg.outCapacity) :
    engineStep s = .next ((s.consume 8).headerAccepted v true (le32 c0 c1 c2 c3)) := by
  rw [engineStep_header hp hr, decodeLength, if_pos hlen, decodeLen32, runDecoded, exec_extendedHeader]
  exact headerStep_next.2 ⟨hp, hfit, rfl⟩

end Sys2Proof.Machine

namespace Sys2Proof

open Sys2Proof.Machine

/-- Settles O27: the three bytes are 0 as a number exactly when `len24` is, and with OUT_CAPACITY 2^32 every length fits. -/
theorem headerLengthIsLittleEndian : Obligations.HeaderLengthIsLittleEndian := by
  intro s v b1 b2 b3 rest hp hcap hr
  rw [← toNat_le24]
  refine ⟨fun hne => ?_, ?_⟩
  · have hlen : le24 b1 b2 b3 ≠ 0 := fun h => hne (by simp [h])
    have hfit : (le24 b1 b2 b3).toNat ≤ s.cfg.outCapacity := by omega
    have hpos : targetOfLen24 (le24 b1 b2 b3) ≠ 0 := fun h => by
      simpa [h] using (targetOfLen24_short hlen).1
    exact ⟨_, engineStep_shortHeader hp hr hlen hfit, toNat_targetOfLen24 _, rfl, rfl, rfl, if_neg hpos⟩
  · rintro c0 c1 c2 c3 rest' hzero rfl
    have hlen : le24 b1 b2 b3 = 0 := BitVec.eq_of_toNat_eq hzero
    have hfit : (le32 c0 c1 c2 c3).toNat ≤ s.cfg.outCapacity := by omega
    exact ⟨_, engineStep_extendedHeader hp hr hlen hfit, toNat_le32 c0 c1 c2 c3, rfl, rfl, rfl, by simp⟩

end Sys2Proof
end

section
/-! What the host reads of a decode: DONE in STATUS, then the bytes of OUT (20_memory.md R63, R64). -/

namespace Sys2Proof.Machine

/-- STATE reads 2 in DONE only (10_state.md R35). -/
theorem stateCode_eq_two (p : Phase) : (stateCode p).toNat = 2 ↔ p = .done := by
  cases p <;> simp [stateCode]

/-- The three conditions of 20_memory.md R63 (a). -/
theorem outReadable_iff {s : State} {pos : BitVec 32} :
    outReadable s pos = true ↔ s.phase = .done ∧ s.doneSeen = true ∧ pos.toNat < s.targetLen.toNat := by
  simp [outReadable, BitVec.lt_def, and_assoc]

variable {s : State} {pos : BitVec 32}

/-- A read of a result byte returns it and draws nothing (20_memory.md R63 (a)). -/
theorem hostOutRead_of_readable {b : Byte} (hcap : pos.toNat < s.cfg.outCapacity) (hr : outReadable s pos = true)
    (hb : s.out.read pos.toNat = some b) : hostOutRead s pos = .next { s with reply := some (.byte b) } := by
  rw [hostOutRead, if_neg hcap.not_ge, if_pos hr, State.afterOutRead_of_read hb, State.outByte_of_read hb]

/-- Any other read of an existing position is a draw (20_memory.md R63 (b)). -/
theorem hostOutRead_of_not_readable (hcap : pos.toNat < s.cfg.outCapacity) (hr : ¬ outReadable s pos = true) :
    hostOutRead s pos = .next { s.drew with reply := some (.byte (Config.freeByte s.draws)) } := by
  rw [hostOutRead, if_neg hcap.not_ge, if_neg hr]

end Sys2Proof.Machine

namespace Sys2Proof

open Sys2Proof.Machine

/-- Settles O21: the first clause's conditions are those of `outReadable`, and the second clause's deny one of them. -/
theorem hostReadsOutOnlyAfterDone : Obligations.HostReadsOutOnlyAfterDone := by
  intro s rest pos hcap hev
  rw [step_event hev]
  refine ⟨fun b hdone hseen hlt hb => ?_, fun hnot => ?_⟩
  · exact hostOutRead_of_readable (s := { s with events := rest }) hcap (outReadable_iff.2 ⟨hdone, hseen, hlt⟩) hb
  · refine hostOutRead_of_not_readable (s := { s with events := rest }) hcap fun hr => ?_
    obtain ⟨hdone, hseen, hlt⟩ := outReadable_iff.1 hr
    obtain h | h | h := hnot
    · exact h hdone
    · exact Bool.false_ne_true (h.symm.trans hseen)
    · exact absurd hlt (Nat.not_lt.2 h)

/-- Settles O22: the read reaches STATUS, whose STATE is 2 in DONE only. -/
theorem readingDoneIsRemembered : Obligations.ReadingDoneIsRemembered := by
  intro s rest hbase hev
  have hreg : regOf s.cfg (s.cfg.regBase + 4) 4 = some .status := regOf_base hbase (off := 4) rfl
  refine ⟨_, step_regRead hreg hev, ?_, ?_⟩
  · simp [afterRegRead, seesDone]
  · rw [statusWord_mod_four, stateCode_eq_two]

end Sys2Proof
end

section
/-! The fields of the encodings: nibbles and bytes cut out of an operand, put together again, and the decoder's answer for
each encoding (30_encoding.md R72 to R80). -/

namespace Sys2Proof

open Sys2Proof.Machine

/-! ### Nibbles and bytes of an operand -/

@[simp] theorem highNibble_append (x y : BitVec 4) : highNibble (x ++ y) = x :=
  BitVec.extractLsb'_append_eq_left

@[simp] theorem lowNibble_append (x y : BitVec 4) : lowNibble (x ++ y) = y :=
  BitVec.extractLsb'_append_eq_right

@[simp] theorem highNibble_append_lowNibble (b : Byte) : highNibble b ++ lowNibble b = b :=
  BitVec.extractLsb'_append_extractLsb' (w := 4) (len := 4)

/-- A nibble is known by its number. -/
theorem highNibble_eq_iff {b : Byte} {k : BitVec 4} : highNibble b = k ↔ b.toNat / 16 = k.toNat := by
  rw [← toNat_highNibble, BitVec.toNat_inj]

/-- The 12-bit distance field over its two bytes. -/
@[simp] theorem distanceField_of_bytes (d : BitVec 12) : d.extractLsb' 8 4 ++ byteOf d 0 = d :=
  BitVec.extractLsb'_append_extractLsb' (w := 4) (len := 8)

@[simp] theorem distanceField_high (x : BitVec 4) (b : Byte) : (x ++ b).extractLsb' 8 4 = x :=
  BitVec.extractLsb'_append_eq_left

@[simp] theorem distanceField_low (x : BitVec 4) (b : Byte) : byteOf (x ++ b) 0 = b :=
  BitVec.extractLsb'_append_eq_right

/-- The 16-bit length field of REF11L over a nibble, a byte and a nibble (30_encoding.md R80). -/
@[simp] theorem lengthFieldL_of_parts (l : BitVec 16) :
    l.extractLsb' 12 4 ++ l.extractLsb' 4 8 ++ l.extractLsb' 0 4 = l := by
  have hhigh : l.extractLsb' 12 4 ++ l.extractLsb' 4 8 = l.extractLsb' 4 12 :=
    BitVec.extractLsb'_append_extractLsb'_eq_extractLsb' (by decide)
  rw [hhigh]
  exact BitVec.extractLsb'_append_extractLsb' (w := 12) (len := 4)

@[simp] theorem lengthFieldL_high (x : BitVec 4) (b : Byte) (y : BitVec 4) : (x ++ b ++ y).extractLsb' 12 4 = x :=
  (BitVec.extractLsb'_append_eq_of_le (by decide)).trans BitVec.extractLsb'_append_eq_left

@[simp] theorem lengthFieldL_middle (x : BitVec 4) (b : Byte) (y : BitVec 4) : (x ++ b ++ y).extractLsb' 4 8 = b :=
  (BitVec.extractLsb'_append_eq_of_le (by decide)).trans BitVec.extractLsb'_append_eq_right

@[simp] theorem lengthFieldL_low (x : BitVec 4) (b : Byte) (y : BitVec 4) : (x ++ b ++ y).extractLsb' 0 4 = y :=
  BitVec.extractLsb'_append_eq_right

/-- Bits `k` to `k + m - 1` of a word as a number. -/
theorem toNat_extractLsb'_eq {w : Nat} (v : BitVec w) (k m : Nat) :
    (v.extractLsb' k m).toNat = v.toNat / 2 ^ k % 2 ^ m := by
  rw [BitVec.extractLsb'_toNat, Nat.shiftRight_eq_div_pow]

@[simp] theorem toNat_byteOf {w : Nat} (v : BitVec w) (k : Nat) : (byteOf v k).toNat = v.toNat / 256 ^ k % 256 := by
  simp only [byteOf, toNat_extractLsb'_eq, Nat.pow_mul, Nat.reducePow]

/-- The little-endian lengths over their bytes (20_memory.md R54). -/
@[simp] theorem le24_of_bytes (n : BitVec 24) : le24 (byteOf n 0) (byteOf n 1) (byteOf n 2) = n := by
  apply BitVec.eq_of_toNat_eq
  rw [toNat_le24]
  simp only [toNat_byteOf]
  omega

@[simp] theorem le32_of_bytes (n : BitVec 32) : le32 (byteOf n 0) (byteOf n 1) (byteOf n 2) (byteOf n 3) = n := by
  apply BitVec.eq_of_toNat_eq
  rw [toNat_le32]
  simp only [toNat_byteOf]
  omega

@[simp] theorem byteOf_le24 (b1 b2 b3 : Byte) :
    byteOf (le24 b1 b2 b3) 0 = b1 ∧ byteOf (le24 b1 b2 b3) 1 = b2 ∧ byteOf (le24 b1 b2 b3) 2 = b3 := by
  simp only [← BitVec.toNat_inj, toNat_byteOf, toNat_le24]
  omega

@[simp] theorem byteOf_le32 (c0 c1 c2 c3 : Byte) :
    byteOf (le32 c0 c1 c2 c3) 0 = c0 ∧ byteOf (le32 c0 c1 c2 c3) 1 = c1 ∧ byteOf (le32 c0 c1 c2 c3) 2 = c2
      ∧ byteOf (le32 c0 c1 c2 c3) 3 = c3 := by
  simp only [← BitVec.toNat_inj, toNat_byteOf, toNat_le32]
  omega

/-- The three length bytes are 0 as a number only where each is 0. -/
theorem le24_eq_zero {b1 b2 b3 : Byte} (h : le24 b1 b2 b3 = 0) : b1 = 0 ∧ b2 = 0 ∧ b3 = 0 := by
  have hbytes := byteOf_le24 b1 b2 b3
  rw [h] at hbytes
  obtain ⟨rfl, rfl, rfl⟩ := hbytes
  decide

/-! ### What the encoder emits, and what the decoder answers for a header -/

/-- The length field of REF11M is cut at the nibble, as a byte of the stream is (30_encoding.md R79). -/
theorem encode_ref11m (l : BitVec 8) (d : BitVec 12) :
    encode (.ref11m l d) = [(0 : BitVec 4) ++ highNibble l, lowNibble l ++ d.extractLsb' 8 4, byteOf d 0] := rfl

theorem encode_shortHeader (v : Variant) (n : BitVec 24) :
    encode (shortHeader v n) = [tagOf v, byteOf n 0, byteOf n 1, byteOf n 2] := by
  cases v <;> rfl

theorem encode_extendedHeader (v : Variant) (n : BitVec 32) :
    encode (extendedHeader v n) = [tagOf v, 0, 0, 0, byteOf n 0, byteOf n 1, byteOf n 2, byteOf n 3] := by
  cases v <;> rfl

theorem decode_encode_shortHeader (v : Variant) {n : BitVec 24} (hn : n ≠ 0) (rest : List Byte) :
    decode .header (encode (shortHeader v n) ++ rest) = .ok (shortHeader v n) rest := by
  rw [encode_shortHeader, List.cons_append, decode_header_tagOf]
  simp only [List.cons_append, List.nil_append, decodeLength, le24_of_bytes, if_neg hn]

theorem decode_encode_extendedHeader (v : Variant) (n : BitVec 32) (rest : List Byte) :
    decode .header (encode (extendedHeader v n) ++ rest) = .ok (extendedHeader v n) rest := by
  have hzero : le24 0 0 0 = 0 := rfl
  rw [encode_extendedHeader, List.cons_append, decode_header_tagOf]
  simp only [List.cons_append, List.nil_append, decodeLength, hzero, if_true, decodeLen32, le32_of_bytes]

/-! ### The tier of an LZSS11 token (30_encoding.md R77) -/

theorem decode_token11_tierM {b0 : Byte} (h : highNibble b0 = 0) (bs : List Byte) :
    decode .token11 (b0 :: bs) = decodeTierM b0 bs := by
  rw [decode, decodeToken11, if_pos h]

theorem decode_token11_tierL {b0 : Byte} (h : highNibble b0 = 1) (bs : List Byte) :
    decode .token11 (b0 :: bs) = decodeTierL b0 bs := by
  rw [decode, decodeToken11, if_neg (by simp [h]), if_pos h]

theorem decode_token11_tierS {b0 : Byte} (h : 2 ≤ (highNibble b0).toNat) (bs : List Byte) :
    decode .token11 (b0 :: bs) = decodeTierS b0 bs := by
  have h0 : highNibble b0 ≠ 0 := fun h' => by simp [h'] at h
  have h1 : highNibble b0 ≠ 1 := fun h' => by simp [h'] at h
  rw [decode, decodeToken11, if_neg h0, if_neg h1]

/-- Settles O1: each constructor's bytes give its fields back, and the first byte's high nibble the tier. -/
theorem decodeEncodeRoundTrip : Obligations.DecodeEncodeRoundTrip := by
  intro i rest hwf
  cases i with
  | hdr10 n => exact decode_encode_shortHeader .lzss10 (of_decide_eq_true hwf) rest
  | hdr11 n => exact decode_encode_shortHeader .lzss11 (of_decide_eq_true hwf) rest
  | hdr10x n => exact decode_encode_extendedHeader .lzss10 n rest
  | hdr11x n => exact decode_encode_extendedHeader .lzss11 n rest
  | flag f => rfl
  | lit v => rfl
  | ref10 l d => simp [Instr.context, encode, decode, decodeToken10]
  | ref11s l d =>
    have hl : 2 ≤ l.toNat := of_decide_eq_true hwf
    simp [Instr.context, encode, decode_token11_tierS, hl, decodeTierS]
  | ref11m l d => simp [Instr.context, encode_ref11m, decode_token11_tierM, decodeTierM]
  | ref11l l d => simp [Instr.context, encode, decode_token11_tierL, decodeTierL]
  | copy => rfl
  | start => rfl

/-! ### The bytes that the decoder reads an element from -/

theorem encode_length (i : Instr) : (encode i).length = i.width := by
  cases i <;> rfl

theorem bytes_of_decodeLength {v : Variant} {bs rest : List Byte} {i : Instr} (h : decodeLength v bs = .ok i rest) :
    tagOf v :: bs = encode i ++ rest := by
  match bs, h with
  | b1 :: b2 :: b3 :: bs, h =>
    rw [decodeLength] at h
    split at h
    case isTrue hzero =>
      obtain ⟨rfl, rfl, rfl⟩ := le24_eq_zero hzero
      match bs, h with
      | c0 :: c1 :: c2 :: c3 :: bs, h =>
        cases h
        simp [encode_extendedHeader]
    case isFalse =>
      cases h
      simp [encode_shortHeader]

theorem bytes_of_decodeHeader {bs rest : List Byte} {i : Instr} (h : decodeHeader bs = .ok i rest) :
    bs = encode i ++ rest := by
  match bs, h with
  | tag :: bs, h =>
    rw [decodeHeader] at h
    split at h
    case isTrue htag => exact htag ▸ bytes_of_decodeLength h
    case isFalse =>
      split at h
      case isTrue htag => exact htag ▸ bytes_of_decodeLength h
      case isFalse => cases h

theorem bytes_of_decodeToken11 {bs rest : List Byte} {i : Instr} (h : decodeToken11 bs = .ok i rest) :
    bs = encode i ++ rest := by
  match bs, h with
  | b0 :: bs, h =>
    rw [decodeToken11] at h
    split at h
    case isTrue h0 =>
      match bs, h with
      | b1 :: b2 :: bs, h =>
        cases h
        simp [encode_ref11m, ← h0]
    case isFalse =>
      split at h
      case isTrue h1 =>
        match bs, h with
        | b1 :: b2 :: b3 :: bs, h =>
          cases h
          simp [encode, ← h1]
      case isFalse =>
        match bs, h with
        | b1 :: bs, h =>
          cases h
          simp [encode]

/-- The decoder reads an element from its encoding and leaves what follows; a CTRL word is left out, whose bits 31:1 are
ignored (10_state.md R34). -/
theorem bytes_of_decode_ok {c : Context} {bs rest : List Byte} {i : Instr} (hc : c ≠ .ctrlWrite)
    (h : decode c bs = .ok i rest) : bs = encode i ++ rest := by
  cases c with
  | header => exact bytes_of_decodeHeader h
  | flagByte =>
    match bs, h with
    | _ :: _, h => cases h; rfl
  | literal =>
    match bs, h with
    | _ :: _, h => cases h; rfl
  | token10 =>
    match bs, h with
    | b0 :: b1 :: bs, h =>
      cases h
      simp [encode]
  | token11 => exact bytes_of_decodeToken11 h
  | copyStep => cases h; rfl
  | ctrlWrite => exact absurd rfl hc

/-- Settles O2: well-formedness and context are the decoder's own, and the bytes are put together again from the fields. -/
theorem decodedBytesAreTheEncoding : Obligations.DecodedBytesAreTheEncoding :=
  fun _ _ _ i hc h =>
    ⟨wellFormed_of_decode_ok h, context_of_decode_ok h, bytes_of_decode_ok hc h, encode_length i⟩

/-! ### The fields as numbers -/

/-- Settles O4: the tier's own decoder takes 3, 4 or 2 bytes. -/
theorem highNibbleSelectsTheTier : Obligations.HighNibbleSelectsTheTier := by
  intro b0 b1 b2 b3 rest
  refine ⟨fun h => ?_, fun h => ?_, fun h => ?_⟩
  · exact ⟨_, _, decode_token11_tierM (highNibble_eq_iff.2 h) _⟩
  · exact ⟨_, _, decode_token11_tierL (highNibble_eq_iff.2 h) _⟩
  · exact ⟨_, _, decode_token11_tierS (h.trans_eq (toNat_highNibble b0).symm) _⟩

/-- The distance field of every token, first byte high (20_memory.md R55). -/
theorem toNat_distanceField (a b : Byte) : (lowNibble a ++ b).toNat = a.toNat % 16 * 256 + b.toNat := by
  simp only [toNat_append_eq, toNat_lowNibble, Nat.reducePow]

theorem toNat_lengthFieldM (a b : Byte) :
    (lowNibble a ++ highNibble b).toNat = a.toNat % 16 * 16 + b.toNat / 16 := by
  simp only [toNat_append_eq, toNat_lowNibble, toNat_highNibble, Nat.reducePow]

theorem toNat_lengthFieldL (a b c : Byte) :
    (lowNibble a ++ b ++ highNibble c).toNat = a.toNat % 16 * 4096 + b.toNat * 16 + c.toNat / 16 := by
  rw [toNat_append_eq, toNat_distanceField, toNat_highNibble]
  omega

/-- Settles O5: each field is a concatenation, whose left part is the more significant one. -/
theorem tokenFieldsAreFirstByteHigh : Obligations.TokenFieldsAreFirstByteHigh := by
  intro b0 b1 b2 b3
  refine ⟨?_, fun h => ?_, fun h => ?_, fun h => ?_⟩
  · exact ⟨_, _, rfl, toNat_highNibble b0, toNat_distanceField b0 b1⟩
  · exact ⟨_, _, decode_token11_tierS (h.trans_eq (toNat_highNibble b0).symm) _, toNat_highNibble b0,
      toNat_distanceField b0 b1⟩
  · exact ⟨_, _, decode_token11_tierM (highNibble_eq_iff.2 h) _, toNat_lengthFieldM b0 b1, toNat_distanceField b1 b2⟩
  · exact ⟨_, _, decode_token11_tierL (highNibble_eq_iff.2 h) _, toNat_lengthFieldL b0 b1 b2,
      toNat_distanceField b2 b3⟩

end Sys2Proof
end

section
/-! The lines of a listing (30_encoding.md R87, R88): a line assembles to the encoding of the instruction it names, so that the
decoder reads that instruction back; and the tiers of LZSS11 under the default biases (R86). -/

namespace Sys2Proof.Machine

/-- An assembled line that is an instruction's encoding decodes to it, with nothing left. -/
theorem decode_encode {i : Instr} (hwf : i.wellFormed = true) : decode i.context (encode i) = .ok i [] := by
  simpa using decodeEncodeRoundTrip i [] hwf

/-! ### Headers -/

theorem natByte_eq_byteOf {w n k : Nat} (hn : n < 2 ^ w) : natByte n k = byteOf (BitVec.ofNat w n) k := by
  apply BitVec.eq_of_toNat_eq
  simp [natByte, Nat.mod_eq_of_lt hn]

theorem assembleShort_eq {n : Nat} (hpos : n ≠ 0) (hn : n ≤ 0xFFFFFF) (v : Variant) :
    assembleShort v n = some (encode (shortHeader v (BitVec.ofNat 24 n))) := by
  have hlt : n < 2 ^ 24 := by omega
  rw [assembleShort, if_pos ⟨Nat.pos_of_ne_zero hpos, hn⟩, encode_shortHeader]
  simp only [natByte_eq_byteOf hlt]

theorem assembleExtended_eq {n : Nat} (hn : n ≤ 0xFFFFFFFF) (v : Variant) :
    assembleExtended v n = some (encode (extendedHeader v (BitVec.ofNat 32 n))) := by
  have hlt : n < 2 ^ 32 := by omega
  rw [assembleExtended, if_pos hn, encode_extendedHeader]
  simp only [natByte_eq_byteOf hlt]

/-! ### Tokens -/

/-- An operand is its field plus the tier's bias, where the field has the bits for it (30_encoding.md R81). -/
theorem toNat_ofNat_sub_add {w n bias : Nat} (hlo : bias ≤ n) (hhi : n < bias + 2 ^ w) :
    (BitVec.ofNat w (n - bias)).toNat + bias = n := by
  rw [BitVec.toNat_ofNat, Nat.mod_eq_of_lt (by omega), Nat.sub_add_cancel hlo]

/-- The distance field of a listed distance (30_encoding.md R87). -/
def distField (dist : Nat) : BitVec 12 := BitVec.ofNat 12 (dist - 1)

theorem toNat_distField {dist : Nat} (h1 : 1 ≤ dist) (h2 : dist ≤ 4096) : (distField dist).toNat + 1 = dist :=
  toNat_ofNat_sub_add h1 (by omega)

@[simp] theorem distField_toNat_succ (d : BitVec 12) : distField (d.toNat + 1) = d := by
  simp [distField]

theorem distInRange_iff {dist : Nat} : distInRange dist = true ↔ 1 ≤ dist ∧ dist ≤ 4096 := by
  simp [distInRange]

theorem twoBytes_eq (f : Nat) {dist : Nat} (h2 : dist ≤ 4096) :
    twoBytes f dist = [BitVec.ofNat 4 f ++ (distField dist).extractLsb' 8 4, byteOf (distField dist) 0] := by
  simp only [twoBytes, List.cons.injEq, ← BitVec.toNat_inj, toNat_append_eq, toNat_extractLsb'_eq, toNat_byteOf,
    distField, BitVec.toNat_ofNat, and_true]
  omega

section
variable {c : Config} {len dist : Nat} (h1 : 1 ≤ dist) (h2 : dist ≤ 4096)
include h1 h2

theorem assembleItem_ref10 (hlo : 3 ≤ len) (hhi : len ≤ 18) :
    assembleItem c (.ref10 len dist) = some (encode (.ref10 (BitVec.ofNat 4 (len - 3)) (distField dist))) := by
  rw [assembleItem, assembleRef10, if_pos ⟨hlo, hhi, distInRange_iff.2 ⟨h1, h2⟩⟩, twoBytes_eq _ h2, encode]

theorem assembleItem_ref11s (hlo : 3 ≤ len) (hhi : len ≤ 16) :
    assembleItem c (.ref11s len dist) = some (encode (.ref11s (BitVec.ofNat 4 (len - 1)) (distField dist))) := by
  rw [assembleItem, assembleRef11S, if_pos ⟨hlo, hhi, distInRange_iff.2 ⟨h1, h2⟩⟩, twoBytes_eq _ h2, encode]

theorem assembleItem_ref11m (hlo : c.bias3.toNat ≤ len) (hhi : len ≤ c.bias3.toNat + 255) :
    assembleItem c (.ref11m len dist) =
      some (encode (.ref11m (BitVec.ofNat 8 (len - c.bias3.toNat)) (distField dist))) := by
  generalize hf : len - c.bias3.toNat = f
  have hlt : f < 256 := by omega
  have hhigh : BitVec.ofNat 8 (f / 16) = (0 : BitVec 4) ++ highNibble (BitVec.ofNat 8 f) := by
    simp only [← BitVec.toNat_inj, toNat_append_eq, toNat_highNibble, BitVec.ofNat_eq_ofNat, BitVec.toNat_ofNat]
    omega
  have hlow : BitVec.ofNat 4 (f % 16) = lowNibble (BitVec.ofNat 8 f) := by
    simp [← BitVec.toNat_inj, toNat_lowNibble]
  rw [assembleItem, assembleRef11M, if_pos ⟨hlo, hhi, distInRange_iff.2 ⟨h1, h2⟩⟩, hf, twoBytes_eq _ h2, encode_ref11m,
    hhigh, hlow]

theorem assembleItem_ref11l (hlo : c.bias4.toNat ≤ len) (hhi : len ≤ c.bias4.toNat + 65535) :
    assembleItem c (.ref11l len dist) =
      some (encode (.ref11l (BitVec.ofNat 16 (len - c.bias4.toNat)) (distField dist))) := by
  generalize hf : len - c.bias4.toNat = f
  have hlt : f < 65536 := by omega
  have hhigh : BitVec.ofNat 8 (16 + f / 4096) = (1 : BitVec 4) ++ (BitVec.ofNat 16 f).extractLsb' 12 4 := by
    simp only [← BitVec.toNat_inj, toNat_append_eq, toNat_extractLsb'_eq, BitVec.ofNat_eq_ofNat, BitVec.toNat_ofNat]
    omega
  have hmiddle : BitVec.ofNat 8 (f / 16 % 256) = (BitVec.ofNat 16 f).extractLsb' 4 8 := by
    simp only [← BitVec.toNat_inj, toNat_extractLsb'_eq, BitVec.toNat_ofNat]
    omega
  have hlow : BitVec.ofNat 4 (f % 16) = (BitVec.ofNat 16 f).extractLsb' 0 4 := by
    simp [← BitVec.toNat_inj]
  rw [assembleItem, assembleRef11L, if_pos ⟨hlo, hhi, distInRange_iff.2 ⟨h1, h2⟩⟩, hf, twoBytes_eq _ h2, encode,
    hhigh, hmiddle, hlow]

end

/-! ### The operands of a token as numbers (30_encoding.md R81) -/

/-- The token's length and distance under a configuration are these two numbers. -/
def HasOperands (c : Config) (i : Instr) (len dist : Nat) : Prop :=
  ∃ l d, tokenOperands c i = some (l, d) ∧ l.toNat = len ∧ d.toNat = dist

theorem hasOperands_iff {c : Config} {i : Instr} {l : BitVec 17} {d : BitVec 12} {len dist : Nat}
    (h : tokenOperands c i = some (l, distanceOf d)) :
    HasOperands c i len dist ↔ l.toNat = len ∧ d.toNat + 1 = dist := by
  simp [HasOperands, h]

section
variable {c : Config} {len dist : Nat} {d : BitVec 12}

theorem hasOperands_ref10 {l : BitVec 4} :
    HasOperands c (.ref10 l d) len dist ↔ l.toNat + 3 = len ∧ d.toNat + 1 = dist := by
  rw [hasOperands_iff rfl, toNat_lengthRef10]

theorem hasOperands_ref11s {l : BitVec 4} :
    HasOperands c (.ref11s l d) len dist ↔ l.toNat + 1 = len ∧ d.toNat + 1 = dist := by
  rw [hasOperands_iff rfl, toNat_lengthRef11S]

theorem hasOperands_ref11m (hc : c.wf = true) {l : BitVec 8} :
    HasOperands c (.ref11m l d) len dist ↔ l.toNat + c.bias3.toNat = len ∧ d.toNat + 1 = dist := by
  rw [hasOperands_iff rfl, toNat_lengthRef11M hc]

theorem hasOperands_ref11l (hc : c.wf = true) {l : BitVec 16} :
    HasOperands c (.ref11l l d) len dist ↔ l.toNat + c.bias4.toNat = len ∧ d.toNat + 1 = dist := by
  rw [hasOperands_iff rfl, toNat_lengthRef11L hc]

end

/-- A length from 3 on does not select another tier (30_encoding.md R78). -/
theorem wellFormed_ref11s {len : Nat} (hlo : 3 ≤ len) (hhi : len ≤ 16) (d : BitVec 12) :
    (Instr.ref11s (BitVec.ofNat 4 (len - 1)) d).wellFormed = true := by
  have hlen : (BitVec.ofNat 4 (len - 1)).toNat + 1 = len := toNat_ofNat_sub_add (by omega) (by omega)
  have hfield : 2 ≤ (BitVec.ofNat 4 (len - 1)).toNat := by omega
  exact decide_eq_true hfield

/-- What R87 asks of a listing line: it assembles to the bytes of one token, with the operands it names. -/
theorem exists_of_assembleItem_eq {c : Config} {item : ListingItem} {i : Instr} {len dist : Nat}
    (hbytes : assembleItem c item = some (encode i)) (hwf : i.wellFormed = true) (hop : HasOperands c i len dist) :
    ∃ bs j l d, assembleItem c item = some bs ∧ decode i.context bs = .ok j []
      ∧ tokenOperands c j = some (l, d) ∧ l.toNat = len ∧ d.toNat = dist := by
  obtain ⟨l, d, hop⟩ := hop
  exact ⟨encode i, i, l, d, hbytes, decode_encode hwf, hop⟩

/-! ### One LZSS11 token for each length and distance -/

/-- The LZSS11 token of a length and a distance under the default biases: the tiers of 30_encoding.md R82. -/
def tokenOf (len dist : Nat) : Instr :=
  if len ≤ 16 then .ref11s (BitVec.ofNat 4 (len - 1)) (distField dist)
  else if len ≤ 272 then .ref11m (BitVec.ofNat 8 (len - 0x11)) (distField dist)
  else .ref11l (BitVec.ofNat 16 (len - 0x111)) (distField dist)

theorem context_tokenOf (len dist : Nat) : (tokenOf len dist).context = .token11 := by
  unfold tokenOf
  split
  · rfl
  · split <;> rfl

theorem wellFormed_tokenOf {len : Nat} (hlo : 3 ≤ len) (dist : Nat) : (tokenOf len dist).wellFormed = true := by
  unfold tokenOf
  split
  · exact wellFormed_ref11s hlo ‹_› _
  · split <;> rfl

theorem hasOperands_tokenOf {len dist : Nat} (hlo : 3 ≤ len) (hhi : len ≤ 65808) (h1 : 1 ≤ dist) (h2 : dist ≤ 4096) :
    HasOperands Config.default (tokenOf len dist) len dist := by
  have hdist := toNat_distField h1 h2
  unfold tokenOf
  split
  · exact hasOperands_ref11s.2 ⟨toNat_ofNat_sub_add (by omega) (by omega), hdist⟩
  · split
    · exact (hasOperands_ref11m rfl).2 ⟨toNat_ofNat_sub_add (by omega) (by omega), hdist⟩
    · exact (hasOperands_ref11l rfl).2 ⟨toNat_ofNat_sub_add (by omega) (by omega), hdist⟩

/-- The ranges of the three tiers are disjoint, so the operands determine the token. -/
theorem eq_tokenOf {i : Instr} {len dist : Nat} (hwf : i.wellFormed = true) (hi : i.context = .token11)
    (hop : HasOperands Config.default i len dist) : i = tokenOf len dist := by
  cases i with
  | ref11s l d =>
    obtain ⟨rfl, rfl⟩ := hasOperands_ref11s.1 hop
    rw [tokenOf, if_pos (by omega)]
    simp
  | ref11m l d =>
    obtain ⟨rfl, rfl⟩ := (hasOperands_ref11m rfl).1 hop
    have hbias3 : Config.default.bias3.toNat = 0x11 := rfl
    rw [hbias3, tokenOf, if_neg (by omega), if_pos (by omega)]
    simp
  | ref11l l d =>
    obtain ⟨rfl, rfl⟩ := (hasOperands_ref11l rfl).1 hop
    have hbias4 : Config.default.bias4.toNat = 0x111 := rfl
    rw [hbias4, tokenOf, if_neg (by omega), if_neg (by omega)]
    simp
  | _ => cases hi

end Sys2Proof.Machine

namespace Sys2Proof

open Sys2Proof.Machine

/-- Settles O8: either form of the line is the encoding of its header. -/
theorem listingHeadersDecodeToTheirLength : Obligations.ListingHeadersDecodeToTheirLength := by
  intro c v n hn
  by_cases hform : n = 0 ∨ 0xFFFFFF < n
  · rw [if_pos hform]
    refine ⟨_, (if_pos hform).trans (assembleExtended_eq hn v), ?_⟩
    simpa using decode_encode_extendedHeader v (BitVec.ofNat 32 n) []
  · rw [if_neg hform]
    obtain ⟨hpos, hle⟩ := not_or.1 hform
    have hne : BitVec.ofNat 24 n ≠ 0 := by bv_omega
    refine ⟨_, (if_neg hform).trans (assembleShort_eq hpos (Nat.not_lt.1 hle) v), ?_⟩
    simpa using decode_encode_shortHeader v hne []

/-- Settles O7: each line is the encoding of the token with its length and distance as fields. -/
theorem listingTokensDecodeToTheirOperands : Obligations.ListingTokensDecodeToTheirOperands := by
  intro c len dist hwf h1 h2
  have hdist := toNat_distField h1 h2
  refine ⟨fun hlo hhi => ?_, fun hlo hhi => ?_, fun hlo hhi => ?_, fun hlo hhi => ?_⟩
  · exact exists_of_assembleItem_eq (assembleItem_ref10 h1 h2 hlo hhi) rfl
      (hasOperands_ref10.2 ⟨toNat_ofNat_sub_add hlo (by omega), hdist⟩)
  · exact exists_of_assembleItem_eq (assembleItem_ref11s h1 h2 hlo hhi) (wellFormed_ref11s hlo hhi _)
      (hasOperands_ref11s.2 ⟨toNat_ofNat_sub_add (by omega) (by omega), hdist⟩)
  · exact exists_of_assembleItem_eq (assembleItem_ref11m h1 h2 hlo hhi) rfl
      ((hasOperands_ref11m hwf).2 ⟨toNat_ofNat_sub_add hlo (by omega), hdist⟩)
  · exact exists_of_assembleItem_eq (assembleItem_ref11l h1 h2 hlo hhi) rfl
      ((hasOperands_ref11l hwf).2 ⟨toNat_ofNat_sub_add hlo (by omega), hdist⟩)

/-- Settles O6: the token of the tier whose length range holds `len`, and no other. -/
theorem defaultTiersTileTheLengths : Obligations.DefaultTiersTileTheLengths := by
  intro len dist hlo hhi h1 h2
  refine ⟨tokenOf len dist, ⟨wellFormed_tokenOf hlo dist, context_tokenOf len dist, hasOperands_tokenOf hlo hhi h1 h2⟩, ?_⟩
  rintro i ⟨hwf, hi, hop⟩
  exact eq_tokenOf hwf hi hop

end Sys2Proof
end

section
/-! The four headers run by `exec`: accepted, or refused for exceeding OUT_CAPACITY (40_header.md R100 to R108). -/

namespace Sys2Proof.Machine

/-- Every element of the header context is a header step of its own width (30_encoding.md R70, R85). -/
theorem exec_eq_headerStep {i : Instr} (hc : i.context = .header) :
    ∃ v e len, ∀ s, exec i s = headerStep v e len i.width s := by
  cases i with
  | hdr10 n => exact ⟨.lzss10, false, targetOfLen24 n, fun _ => rfl⟩
  | hdr11 n => exact ⟨.lzss11, false, targetOfLen24 n, fun _ => rfl⟩
  | hdr10x n => exact ⟨.lzss10, true, n, fun _ => rfl⟩
  | hdr11x n => exact ⟨.lzss11, true, n, fun _ => rfl⟩
  | _ => cases hc

/-- In HEADER a header step ends in the capacity test. -/
theorem headerStep_of_header {s : State} (hp : s.phase = .header) (v : Variant) (e : Bool) (len : BitVec 32) (w : Nat) :
    headerStep v e len w s = acceptHeader v e len (s.consume w) := by
  simp only [headerStep, hp]

/-- The refusal of R108 has one cause. -/
theorem headerStep_capacity {v : Variant} {e : Bool} {len : BitVec 32} {w : Nat} {s : State} :
    headerStep v e len w s = .refused .outCapacityExceeded ↔ s.phase = .header ∧ s.cfg.outCapacity < len.toNat := by
  by_cases hp : s.phase = .header
  · rw [headerStep_of_header hp, acceptHeader, State.consume_cfg]
    split <;> simp [*]
  · have hsel : headerStep v e len w s = .refused .notSelected := by
      unfold headerStep
      split
      · exact absurd ‹_› hp
      · rfl
    simp [hsel, hp]

theorem State.outAppend_ne_capacity {s : State} {v : Byte} {k : State → State} :
    s.outAppend v (fun t => .next (k t)) ≠ .refused .outCapacityExceeded := by
  unfold State.outAppend
  split <;> nofun

theorem tokenStep_ne_capacity {v : Variant} {len : BitVec 17} {dist : BitVec 13} {w : Nat} {s : State} :
    tokenStep v len dist w s ≠ .refused .outCapacityExceeded := by
  unfold tokenStep
  repeat' split
  all_goals nofun

/-- No other element raises that refusal. -/
theorem context_of_exec_capacity {i : Instr} {s : State} (h : exec i s = .refused .outCapacityExceeded) :
    i.context = .header := by
  cases i with
  | hdr10 n => rfl
  | hdr11 n => rfl
  | hdr10x n => rfl
  | hdr11x n => rfl
  | flag f =>
    simp only [exec, execFlag] at h
    split at h <;> cases h
  | lit v =>
    simp only [exec, execLit] at h
    split at h
    · split at h
      · exact absurd h State.outAppend_ne_capacity
      · cases h
    · cases h
  | ref10 l d => exact absurd h tokenStep_ne_capacity
  | ref11s l d => exact absurd h tokenStep_ne_capacity
  | ref11m l d => exact absurd h tokenStep_ne_capacity
  | ref11l l d => exact absurd h tokenStep_ne_capacity
  | copy =>
    simp only [exec, execCopy] at h
    split at h
    · exact absurd h State.outAppend_ne_capacity
    · cases h
  | start => cases h

/-- A `target_len` has 32 bits, so the refusal needs a smaller OUT (40_header.md R108). -/
theorem capacity_lt_of_engineStep {s : State} (h : engineStep s = .refused .outCapacityExceeded) :
    s.cfg.outCapacity < 2 ^ 32 := by
  cases hc : nextContext s with
  | none => simp [engineStep_of_none hc] at h
  | some c =>
    rw [engineStep_of_some hc] at h
    cases hd : decode c s.remaining with
    | ok i rest =>
      rw [hd, runDecoded] at h
      obtain ⟨v, e, len, hx⟩ := exec_eq_headerStep (context_of_exec_capacity h)
      exact (headerStep_capacity.1 ((hx s).symm.trans h)).2.trans len.isLt
    | truncated => simp [hd, runDecoded] at h
    | invalidTag tag => simp [hd, runDecoded] at h
    | noCommand => simp [hd, runDecoded] at h

/-- The short header of either variant: a length that is not 0 goes on with a flag byte (40_header.md R100). -/
theorem exec_shortHeader_completes {s : State} (v : Variant) {n : BitVec 24} (hp : s.phase = .header) (hn : n ≠ 0)
    (hfit : n.toNat ≤ s.cfg.outCapacity) :
    ∃ t, exec (shortHeader v n) s = .next t ∧ t.targetLen.toNat = n.toNat
      ∧ t = { s with
          inPos := s.inPos + 4, variant := v, ext := false, hdrValid := true, targetLen := t.targetLen,
          phase := .needFlag } := by
  have hpos : targetOfLen24 n ≠ 0 := fun h => by simpa [h] using (targetOfLen24_short hn).1
  refine ⟨(s.consume 4).headerAccepted v false (targetOfLen24 n), ?_, toNat_targetOfLen24 n, ?_⟩
  · rw [exec_shortHeader]
    exact headerStep_next.2 ⟨hp, (toNat_targetOfLen24 n).trans_le hfit, rfl⟩
  · simp only [State.headerAccepted, if_neg hpos]
    rfl

/-- The extended header of either variant: a length of 0 ends the decode (40_header.md R106). -/
theorem exec_extendedHeader_completes {s : State} (v : Variant) {n : BitVec 32} (hp : s.phase = .header)
    (hfit : n.toNat ≤ s.cfg.outCapacity) :
    exec (extendedHeader v n) s = .next
      { s with
        inPos := s.inPos + 8, variant := v, ext := true, hdrValid := true, targetLen := n,
        phase := if n.toNat = 0 then .done else .needFlag } := by
  have hzero : n.toNat = 0 ↔ n = 0 := BitVec.toNat_inj (y := 0#32)
  rw [exec_extendedHeader]
  refine headerStep_next.2 ⟨hp, hfit, ?_⟩
  simp only [hzero]
  rfl

end Sys2Proof.Machine

namespace Sys2Proof

open Sys2Proof.Machine

/-- Settles O24: both are the short header of a variant. -/
theorem shortHeaderCompletes : Obligations.ShortHeaderCompletes := fun _ _ hp hn hfit =>
  ⟨exec_shortHeader_completes .lzss10 hp hn hfit, exec_shortHeader_completes .lzss11 hp hn hfit⟩

/-- Settles O25: both are the extended header of a variant. -/
theorem extendedHeaderCompletes : Obligations.ExtendedHeaderCompletes := fun _ _ hp hfit =>
  ⟨exec_extendedHeader_completes .lzss10 hp hfit, exec_extendedHeader_completes .lzss11 hp hfit⟩

/-- Settles O26: the test of R108 is the only source of the refusal, and no 32-bit length exceeds 2^32. -/
theorem headerAboveCapacityIsRefused : Obligations.HeaderAboveCapacityIsRefused := by
  refine ⟨fun s len24 hp hcap => ?_, fun s len32 hp hcap => ?_, fun s hdef h => ?_⟩
  · have hcap' : s.cfg.outCapacity < (targetOfLen24 len24).toNat := hcap.trans_eq (toNat_targetOfLen24 len24).symm
    exact ⟨headerStep_capacity.2 ⟨hp, hcap'⟩, headerStep_capacity.2 ⟨hp, hcap'⟩⟩
  · exact ⟨headerStep_capacity.2 ⟨hp, hcap⟩, headerStep_capacity.2 ⟨hp, hcap⟩⟩
  · exact absurd (capacity_lt_of_engineStep h) (hdef ▸ Nat.lt_irrefl _)

end Sys2Proof
end

section
/-! Words of the spec's own examples, run through the decoder (40_header.md, 41_main_loop.md, 43_lzss10_token.md,
44_lzss11_tokens.md). -/

namespace Sys2Proof

/-- Settles O3: the decoder computes the answer to each closed word. -/
theorem sampleWordsDecode : Obligations.SampleWordsDecode := by
  unfold Obligations.SampleWordsDecode
  decide

end Sys2Proof
end

section
/-! Frames of the elements that store no byte: what a header, FLAG, a token and START may change (40_header.md R100,
41_main_loop.md R120, R121, R124). -/

namespace Sys2Proof.Machine

variable {i : Instr} {s t : State}

/-- Every back-reference token is a token step of its own width (30_encoding.md R70, R85). -/
theorem exec_eq_tokenStep (hc : i.context = .token10 ∨ i.context = .token11) (s : State) :
    ∃ v len dist, exec i s = tokenStep v len dist i.width s := by
  cases i with
  | ref10 l d => exact ⟨.lzss10, lengthRef10 l, distanceOf d, rfl⟩
  | ref11s l d => exact ⟨.lzss11, lengthRef11S l, distanceOf d, rfl⟩
  | ref11m l d => exact ⟨.lzss11, lengthRef11M s.cfg l, distanceOf d, rfl⟩
  | ref11l l d => exact ⟨.lzss11, lengthRef11L s.cfg l, distanceOf d, rfl⟩
  | _ => simp [Instr.context] at hc

theorem exec_header_frame (hc : i.context = .header) (h : exec i s = .next t) :
    t = { s with
      inPos := t.inPos, variant := t.variant, ext := t.ext, hdrValid := t.hdrValid, targetLen := t.targetLen,
      phase := t.phase } := by
  obtain ⟨v, e, len, hx⟩ := exec_eq_headerStep hc
  obtain ⟨-, -, rfl⟩ := headerStep_next.1 ((hx s).symm.trans h)
  rfl

theorem exec_flag_frame (hc : i.context = .flagByte) (h : exec i s = .next t) :
    t = { s with inPos := t.inPos, flag := t.flag, phase := t.phase } := by
  cases i with
  | flag f =>
    obtain ⟨-, rfl⟩ := execFlag_next.1 h
    rfl
  | _ => cases hc

/-- `err` and `err_info` change in the fault of R203 only, which ends in ERROR. -/
theorem exec_token_frame (hc : i.context = .token10 ∨ i.context = .token11) (h : exec i s = .next t) :
    t = { s with
        inPos := t.inPos, copyRem := t.copyRem, copyDist := t.copyDist, err := t.err, errInfo := t.errInfo,
        phase := t.phase }
      ∧ (t.phase ≠ .error → t.err = s.err ∧ t.errInfo = s.errInfo) := by
  obtain ⟨v, len, dist, hx⟩ := exec_eq_tokenStep hc s
  obtain ⟨n, -, -, -, rfl⟩ := tokenStep_next.1 (hx.symm.trans h)
  obtain ⟨-, heq⟩ | ⟨-, -, heq⟩ | ⟨-, -, heq⟩ := backRef_cases n len dist (s.consume i.width) <;> rw [heq]
  · exact ⟨rfl, fun hne => absurd rfl hne⟩
  · exact ⟨rfl, fun _ => ⟨rfl, rfl⟩⟩
  · exact ⟨rfl, fun _ => ⟨rfl, rfl⟩⟩

theorem exec_start_frame (h : exec .start s = .next t) :
    t = { s with
      input := t.input, inPos := t.inPos, outLen := t.outLen, targetLen := t.targetLen, variant := t.variant,
      ext := t.ext, hdrValid := t.hdrValid, err := t.err, errInfo := t.errInfo, phase := t.phase,
      doneSeen := t.doneSeen } := by
  obtain rfl : s.start s.port = t := by simpa [exec, execStart] using h
  unfold State.start
  split <;> rfl

/-- START is the one command of a CTRL word (10_state.md R34). -/
theorem eq_start_of_context (hc : i.context = .ctrlWrite) : i = .start := by
  cases i with
  | start => rfl
  | _ => cases hc

/-- Only a literal and a copy step write OUT (20_memory.md R52). -/
theorem exec_keeps_out (hlit : i.context ≠ .literal) (hcopy : i.context ≠ .copyStep) (h : exec i s = .next t) :
    t.out = s.out := by
  cases hc : i.context with
  | header => rw [exec_header_frame hc h]
  | flagByte => rw [exec_flag_frame hc h]
  | literal => exact absurd hc hlit
  | token10 => rw [(exec_token_frame (.inl hc) h).1]
  | token11 => rw [(exec_token_frame (.inr hc) h).1]
  | copyStep => exact absurd hc hcopy
  | ctrlWrite =>
    cases eq_start_of_context hc
    rw [exec_start_frame h]

end Sys2Proof.Machine

namespace Sys2Proof

open Sys2Proof.Machine

/-- Settles O43: one frame for each family of elements, and OUT stands in none of them. -/
theorem elementsThatStoreNothingKeepTheRest : Obligations.ElementsThatStoreNothingKeepTheRest := by
  intro i s t h
  refine ⟨fun hc => exec_header_frame hc h, fun hc => exec_flag_frame hc h, fun hc => exec_token_frame hc h, ?_,
    fun hlit hcopy a => congrArg (Memory.read · a) (exec_keeps_out hlit hcopy h)⟩
  rintro rfl
  exact exec_start_frame h

end Sys2Proof
end

section
/-! The spec's pseudocode read by read, and the engine's step, which decodes first: the k-th read of an element finds
byte k of those at `in_pos`, or ends the step (41_main_loop.md R127, 20_memory.md R51). -/

namespace Sys2Proof.Machine

/-! ### Reads one after another -/

@[simp] theorem State.consume_zero (s : State) : s.consume 0 = s := by
  simp [State.consume]

@[simp] theorem State.consume_consume (s : State) (j k : Nat) : (s.consume j).consume k = s.consume (j + k) := by
  simp [State.consume, BitVec.ofNat_add, BitVec.add_assoc]

section

variable {s : State} (hlen : s.inputBytes.length < 2 ^ 64)
include hlen

/-- After k bytes of the element, `InRead()` finds its byte k. -/
theorem nextByte_consume {k : Nat} (hk : k ≤ s.remaining.length) : (s.consume k).nextByte = s.remaining[k]? := by
  have hrem : s.remaining.length = s.inputBytes.length - s.inPos.toNat := List.length_drop
  rcases Nat.eq_zero_or_pos k with rfl | hpos
  · simp [State.nextByte, State.remaining]
  · have hpc : (s.consume k).inPos.toNat = s.inPos.toNat + k := by
      rw [State.consume_inPos, BitVec.toNat_add, BitVec.toNat_ofNat]
      omega
    rw [State.nextByte, hpc, State.remaining, List.getElem?_drop]
    rfl

/-- A read after k bytes goes on with byte k, or ends the step as the engine's truncated element does. -/
theorem inReadThen_consume {k : Nat} (hk : k ≤ s.remaining.length)
    (K : Byte → State → Host.Outcome State Fault Refusal) :
    inReadThen (s.consume k) K =
      s.remaining[k]?.elim (runDecoded s .truncated) (fun b => K b (s.consume (k + 1))) := by
  rw [inReadThen, nextByte_consume hlen hk, State.consume_consume]
  cases hb : s.remaining[k]? with
  | some b => rfl
  | none =>
    obtain rfl : k = s.remaining.length := Nat.le_antisymm hk (List.getElem?_eq_none_iff.1 hb)
    rfl

/-- The first read of an element. -/
theorem inReadThen_eq (K : Byte → State → Host.Outcome State Fault Refusal) :
    inReadThen s K = s.remaining[0]?.elim (runDecoded s .truncated) (fun b => K b (s.consume 1)) := by
  simpa using inReadThen_consume hlen (Nat.zero_le _) K

end

/-! ### The header step -/

theorem pseudoAccept_eq (v : Variant) (len : BitVec 32) (e : Bool) (s : State) :
    pseudoAccept v len e s = acceptHeader v e len s := by
  unfold pseudoAccept acceptHeader
  split
  · rfl
  · simp only [State.headerAccepted]
    split <;> rfl

/-- The four extended length bytes of HeaderStep(), read one by one. -/
def pseudoLen32 (v : Variant) (s : State) : Host.Outcome State Fault Refusal :=
  inReadThen s fun c0 s => inReadThen s fun c1 s => inReadThen s fun c2 s => inReadThen s fun c3 s =>
    acceptHeader v true (le32 c0 c1 c2 c3) s

/-- HeaderStep() after the tag, with its two forms named. -/
theorem pseudoLengths_eq (v : Variant) (s : State) :
    pseudoLengths v s =
      inReadThen s fun b1 s => inReadThen s fun b2 s => inReadThen s fun b3 s =>
        if le24 b1 b2 b3 = 0 then pseudoLen32 v s else acceptHeader v false (targetOfLen24 (le24 b1 b2 b3)) s := by
  simp only [pseudoLengths, pseudoAccept_eq, ne_eq, ite_not]
  rfl

section

variable {s : State} (hlen : s.inputBytes.length < 2 ^ 64) (hp : s.phase = .header)
include hlen hp

theorem pseudoLen32_refines {tag b1 b2 b3 : Byte} {bs : List Byte} (hr : s.remaining = tag :: b1 :: b2 :: b3 :: bs)
    (v : Variant) : pseudoLen32 v (s.consume 4) = runDecoded s (decodeLen32 v bs) := by
  rcases bs with _ | ⟨c0, _ | ⟨c1, _ | ⟨c2, _ | ⟨c3, bs⟩⟩⟩⟩
  case cons.cons.cons.cons =>
    simp [pseudoLen32, inReadThen_consume hlen, hr, decodeLen32, runDecoded, exec_extendedHeader,
      headerStep_of_header hp]
  all_goals simp [pseudoLen32, inReadThen_consume hlen, hr, decodeLen32]

theorem pseudoLengths_refines {tag : Byte} {bs : List Byte} (hr : s.remaining = tag :: bs) (v : Variant) :
    pseudoLengths v (s.consume 1) = runDecoded s (decodeLength v bs) := by
  rcases bs with _ | ⟨b1, _ | ⟨b2, _ | ⟨b3, bs⟩⟩⟩
  case cons.cons.cons =>
    have hread : pseudoLengths v (s.consume 1) = if le24 b1 b2 b3 = 0 then pseudoLen32 v (s.consume 4)
        else acceptHeader v false (targetOfLen24 (le24 b1 b2 b3)) (s.consume 4) := by
      simp [pseudoLengths_eq, inReadThen_consume hlen, hr]
    rw [hread, decodeLength, pseudoLen32_refines hlen hp hr]
    split
    · rfl
    · rw [runDecoded, exec_shortHeader, headerStep_of_header hp]
  all_goals simp [pseudoLengths_eq, inReadThen_consume hlen, hr, decodeLength]

theorem pseudoHeaderStep_refines : pseudoHeaderStep s = engineStep s := by
  have hc : nextContext s = some .header := by simp only [nextContext, hp]
  rw [engineStep_of_some hc, pseudoHeaderStep, inReadThen_eq hlen]
  cases hr : s.remaining with
  | nil => rfl
  | cons tag bs =>
    have h := pseudoLengths_refines hlen hp hr
    simp only [List.getElem?_cons_zero, Option.elim_some, h, decode, decodeHeader]
    repeat' split
    all_goals rfl

end

/-! ### The main loop -/

theorem pseudoAdvance_eq (n : Fin 8) (s : State) : pseudoAdvance n s = s.advance n := by
  have hlast : n.val < 7 ↔ n ≠ 7 := by omega
  simp only [pseudoAdvance, State.advance, State.phaseAfter, hlast, ge_iff_le]
  split
  · rfl
  · by_cases h7 : n = 7 <;> simp [h7]

theorem pseudoFlagStep_refines {s : State} (hlen : s.inputBytes.length < 2 ^ 64) (hp : s.phase = .needFlag) :
    pseudoFlagStep s = engineStep s := by
  have hc : nextContext s = some .flagByte := by simp only [nextContext, hp]
  rw [engineStep_of_some hc, pseudoFlagStep, inReadThen_eq hlen]
  cases s.remaining with
  | nil => rfl
  | cons f bs => exact (execFlag_next.2 ⟨hp, rfl⟩).symm

theorem pseudoLitStep_refines {s : State} {n : Fin 8} (hlen : s.inputBytes.length < 2 ^ 64) (hp : s.phase = .bit n)
    (hf : flagBit s.flag n = false) : pseudoLitStep n s = engineStep s := by
  have hc : nextContext s = some .literal := by simp [nextContext, hp, hf]
  rw [engineStep_of_some hc, pseudoLitStep, inReadThen_eq hlen]
  cases s.remaining with
  | nil => rfl
  | cons v bs =>
    simp only [List.getElem?_cons_zero, Option.elim_some, decode, decodeLit, runDecoded, exec, execLit, hp, hf,
      pseudoAdvance_eq, if_true]

/-! ### The token decoders -/

/-- In LZSS10, BackRefStep(n) is the token decoder, then the engine's back-reference step (41_main_loop.md R124). -/
theorem pseudoBackRefStep_lzss10 {s : State} (hv : s.variant = .lzss10) (n : Fin 8) :
    pseudoBackRefStep n s = pseudoDecodeRef10 s fun len dist t => .next (backRef n len dist t) := by
  simp only [pseudoBackRefStep, hv, pseudoAdvance_eq, backRef, apply_ite Host.Outcome.next]
  rfl

/-- In LZSS11 likewise. -/
theorem pseudoBackRefStep_lzss11 {s : State} (hv : s.variant = .lzss11) (n : Fin 8) :
    pseudoBackRefStep n s = pseudoDecodeRef11 s fun len dist t => .next (backRef n len dist t) := by
  simp only [pseudoBackRefStep, hv, pseudoAdvance_eq, backRef, apply_ite Host.Outcome.next]
  rfl

/-- Where a token is selected it runs the back-reference step (30_encoding.md R70). -/
theorem tokenStep_of_bit {s : State} {n : Fin 8} (hp : s.phase = .bit n) (hf : flagBit s.flag n = true)
    (len : BitVec 17) (dist : BitVec 13) (w : Nat) :
    tokenStep s.variant len dist w s = .next (backRef n len dist (s.consume w)) :=
  tokenStep_next.2 ⟨n, hp, hf, rfl, rfl⟩

/-- The 16 bits of a 2-byte token, first byte high, are its length nibble and its distance (43_lzss10_token.md R160). -/
theorem lengthBits_append (b0 b1 : Byte) : (b0 ++ b1).extractLsb' 12 4 = highNibble b0 :=
  BitVec.extractLsb'_append_eq_of_le (by decide)

theorem distanceBits_append (b0 b1 : Byte) : (b0 ++ b1).extractLsb' 0 12 = lowNibble b0 ++ b1 := by
  apply BitVec.eq_of_toNat_eq
  rw [toNat_extractLsb'_eq, toNat_append_eq, toNat_distanceField]
  omega

theorem pseudoDecodeRef10_eq (s : State) (K : BitVec 17 → BitVec 13 → State → Host.Outcome State Fault Refusal) :
    pseudoDecodeRef10 s K =
      inReadThen s fun b0 s => inReadThen s fun b1 s =>
        K (lengthRef10 (highNibble b0)) (distanceOf (lowNibble b0 ++ b1)) s := by
  simp only [pseudoDecodeRef10, lengthBits_append, distanceBits_append]
  rfl

theorem pseudoDecodeRef11_eq (s : State) (K : BitVec 17 → BitVec 13 → State → Host.Outcome State Fault Refusal) :
    pseudoDecodeRef11 s K =
      inReadThen s fun b0 s =>
        if highNibble b0 = 0 then
          inReadThen s fun b1 s => inReadThen s fun b2 s =>
            K (lengthRef11M s.cfg (lowNibble b0 ++ highNibble b1)) (distanceOf (lowNibble b1 ++ b2)) s
        else if highNibble b0 = 1 then
          inReadThen s fun b1 s => inReadThen s fun b2 s => inReadThen s fun b3 s =>
            K (lengthRef11L s.cfg (lowNibble b0 ++ b1 ++ highNibble b2)) (distanceOf (lowNibble b2 ++ b3)) s
        else
          inReadThen s fun b1 s => K (lengthRef11S (highNibble b0)) (distanceOf (lowNibble b0 ++ b1)) s :=
  rfl

section

variable {s : State} {n : Fin 8} (hlen : s.inputBytes.length < 2 ^ 64) (hp : s.phase = .bit n)
  (hf : flagBit s.flag n = true)
include hlen hp hf

theorem pseudoDecodeRef10_refines (hv : s.variant = .lzss10) :
    pseudoDecodeRef10 s (fun len dist t => .next (backRef n len dist t)) =
      runDecoded s (decode .token10 s.remaining) := by
  have htoken := tokenStep_of_bit hp hf
  rw [hv] at htoken
  rw [pseudoDecodeRef10_eq, inReadThen_eq hlen]
  rcases hr : s.remaining with _ | ⟨b0, _ | ⟨b1, bs⟩⟩
  case cons.cons => simp [inReadThen_consume hlen, hr, decode, decodeToken10, runDecoded, exec, execRef10, htoken]
  all_goals simp [inReadThen_consume hlen, hr, decode, decodeToken10]

theorem pseudoDecodeRef11_refines (hv : s.variant = .lzss11) :
    pseudoDecodeRef11 s (fun len dist t => .next (backRef n len dist t)) =
      runDecoded s (decode .token11 s.remaining) := by
  have htoken := tokenStep_of_bit hp hf
  rw [hv] at htoken
  rw [pseudoDecodeRef11_eq, inReadThen_eq hlen]
  rcases hr : s.remaining with _ | ⟨b0, bs⟩
  case nil => rfl
  simp only [List.getElem?_cons_zero, Option.elim_some, decode, decodeToken11]
  split
  case isTrue =>
    rcases bs with _ | ⟨b1, _ | ⟨b2, bs⟩⟩
    case cons.cons => simp [inReadThen_consume hlen, hr, decodeTierM, runDecoded, exec, execRef11m, htoken]
    all_goals simp [inReadThen_consume hlen, hr, decodeTierM]
  case isFalse =>
    split
    case isTrue =>
      rcases bs with _ | ⟨b1, _ | ⟨b2, _ | ⟨b3, bs⟩⟩⟩
      case cons.cons.cons => simp [inReadThen_consume hlen, hr, decodeTierL, runDecoded, exec, execRef11l, htoken]
      all_goals simp [inReadThen_consume hlen, hr, decodeTierL]
    case isFalse =>
      rcases bs with _ | ⟨b1, bs⟩
      case cons => simp [inReadThen_consume hlen, hr, decodeTierS, runDecoded, exec, execRef11s, htoken]
      case nil => simp [inReadThen_consume hlen, hr, decodeTierS]

theorem pseudoBackRefStep_refines : pseudoBackRefStep n s = engineStep s := by
  cases hv : s.variant with
  | lzss10 =>
    have hc : nextContext s = some .token10 := by simp [nextContext, hp, hf, hv]
    rw [engineStep_of_some hc, pseudoBackRefStep_lzss10 hv]
    exact pseudoDecodeRef10_refines hlen hp hf hv
  | lzss11 =>
    have hc : nextContext s = some .token11 := by simp [nextContext, hp, hf, hv]
    rw [engineStep_of_some hc, pseudoBackRefStep_lzss11 hv]
    exact pseudoDecodeRef11_refines hlen hp hf hv

end

/-! ### The copy step -/

/-- CopyStep(n) counts down before it tests for the end of the copy (42_copy_engine.md R140). -/
theorem pseudoCopyStep_refines {s : State} {n : Fin 8} (hp : s.phase = .copy n) :
    pseudoCopyStep n s = engineStep s := by
  have hc : nextContext s = some .copyStep := by simp only [nextContext, hp]
  rw [engineStep_of_some hc]
  simp only [pseudoCopyStep, decode, runDecoded, exec, execCopy, hp, copyTail, pseudoAdvance_eq,
    apply_ite Host.Outcome.next]
  rfl

end Sys2Proof.Machine

namespace Sys2Proof

open Sys2Proof.Machine

/-- Settles O12: a case for each phase; reads one by one meet the bytes that the decoder sees at once. -/
theorem engineStepRefinesThePseudocode : Obligations.EngineStepRefinesThePseudocode := by
  intro s hlen
  cases hp : s.phase with
  | idle => simp only [engineStep, nextContext, pseudoEngineStep, hp]
  | header => simp only [pseudoEngineStep, hp, pseudoHeaderStep_refines hlen hp]
  | needFlag => simp only [pseudoEngineStep, hp, pseudoFlagStep_refines hlen hp]
  | bit n =>
    simp only [pseudoEngineStep, hp]
    split
    case isTrue hf => exact (pseudoLitStep_refines hlen hp hf).symm
    case isFalse hf => exact (pseudoBackRefStep_refines hlen hp (eq_true_of_ne_false hf)).symm
  | copy n => simp only [pseudoEngineStep, hp, pseudoCopyStep_refines hp]
  | done => simp only [engineStep, nextContext, pseudoEngineStep, hp]
  | error => simp only [engineStep, nextContext, pseudoEngineStep, hp]

end Sys2Proof
end

section
/-! What START does, and which element the state selects (30_encoding.md R70, 41_main_loop.md R120, R122, R127). -/

namespace Sys2Proof.Machine

/-! ### START -/

theorem exec_start (s : State) : exec .start s = .next (s.start s.port) := rfl

theorem State.start_of_busy {s : State} (h : s.phase.busy = true) (bytes : List Byte) : s.start bytes = s :=
  if_pos h

theorem State.start_of_not_busy {s : State} (h : s.phase.busy = false) (bytes : List Byte) :
    s.start bytes = s.started bytes :=
  if_neg (h ▸ Bool.false_ne_true)

/-! ### The element that the state selects -/

/-- The selector column of 30_encoding.md R70: what the state must be for its next bytes to be read in a context. -/
def State.Selects (s : State) : Context → Prop
  | .header => s.phase = .header
  | .flagByte => s.phase = .needFlag
  | .literal => ∃ n, s.phase = .bit n ∧ flagBit s.flag n = false
  | .token10 => ∃ n, s.phase = .bit n ∧ flagBit s.flag n = true ∧ s.variant = .lzss10
  | .token11 => ∃ n, s.phase = .bit n ∧ flagBit s.flag n = true ∧ s.variant = .lzss11
  | .copyStep => ∃ n, s.phase = .copy n
  | .ctrlWrite => False

theorem nextContext_eq_some_iff {s : State} {c : Context} : nextContext s = some c ↔ s.Selects c := by
  unfold nextContext
  cases hp : s.phase with
  | bit n =>
    cases hf : flagBit s.flag n with
    | false => cases c <;> simp [State.Selects, hp, hf]
    | true => cases hv : s.variant <;> cases c <;> simp [State.Selects, hp, hf, hv]
  | _ => cases c <;> simp [State.Selects, hp]

/-- Bit 7 - n of the flag byte as a digit of its number (41_main_loop.md R122). -/
theorem flagBit_eq_decide (f : Byte) (n : Fin 8) : flagBit f n = decide (f.toNat / 2 ^ (7 - n.val) % 2 = 1) :=
  Nat.testBit_eq_decide_div_mod_eq

end Sys2Proof.Machine

namespace Sys2Proof

open Sys2Proof.Machine

/-- Settles O15: the two branches of START's test for BUSY. -/
theorem startBindsTheInputAndClears : Obligations.StartBindsTheInputAndClears := by
  intro s
  refine ⟨fun hbusy => ?_, fun hidle => ?_⟩
  · rw [exec_start, State.start_of_busy hbusy]
  · rw [exec_start, State.start_of_not_busy hidle]
    rfl

/-- Settles O9: with no event waiting the step is the engine's, which runs what the decoder answers. -/
theorem stepRunsTheDecodedInstruction : Obligations.StepRunsTheDecodedInstruction := by
  intro s c i rest hev hc hd
  rw [step_engine hev, engineStep_of_some hc, hd, runDecoded]

/-- Settles O11: the digit of the flag byte's number is the flag bit that the selector column asks for. -/
theorem flagBitsAreTakenMsbFirst : Obligations.FlagBitsAreTakenMsbFirst := by
  intro s n hp
  refine ⟨fun hzero => ?_, fun hone => ?_⟩
  · have hf : flagBit s.flag n = false := by simp [flagBit_eq_decide, hzero]
    exact nextContext_eq_some_iff.2 ⟨n, hp, hf⟩
  · have hf : flagBit s.flag n = true := by simp [flagBit_eq_decide, hone]
    cases hv : s.variant with
    | lzss10 => exact nextContext_eq_some_iff.2 ⟨n, hp, hf, hv⟩
    | lzss11 => exact nextContext_eq_some_iff.2 ⟨n, hp, hf, hv⟩

end Sys2Proof
end

section
/-! DONE and ERROR: which events leave them (41_main_loop.md R126, 60_exceptions.md R207). -/

namespace Sys2Proof.Machine

/-- The end of a decode takes no engine step (41_main_loop.md R127). -/
theorem nextContext_of_ended {s : State} (h : s.phase = .done ∨ s.phase = .error) : nextContext s = none := by
  obtain hp | hp := h <;> simp only [nextContext, hp]

theorem busy_of_ended {s : State} (h : s.phase = .done ∨ s.phase = .error) : s.phase.busy = false := by
  obtain hp | hp := h <;> rw [hp] <;> rfl

/-- CTRL is reached by a 4-byte access at REG_BASE only (10_state.md R33, R37). -/
theorem regOf_ctrl {c : Config} {addr size : Nat} (h : regOf c addr size = some .ctrl) :
    addr = c.regBase ∧ size = 4 := by
  unfold regOf at h
  split at h
  · rename_i hok
    obtain ⟨hsize, -, hle⟩ := hok
    have hoff : addr - c.regBase = 0 := by
      unfold regAt at h
      split at h <;> simp_all
    exact ⟨by omega, hsize⟩
  · cases h

theorem hostOutRead_phase {s t : State} {pos : BitVec 32} (h : hostOutRead s pos = .next t) : t.phase = s.phase := by
  unfold hostOutRead at h
  split at h
  · cases h
  · split at h <;> cases h
    · rw [State.afterOutRead_eq]
    · rfl

theorem hostOutWrite_phase {s t : State} {pos : BitVec 32} (h : hostOutWrite s pos = .next t) :
    t.phase = s.phase := by
  unfold hostOutWrite at h
  repeat' split at h
  all_goals cases h
  rfl

theorem hostPresent_phase {s t : State} {bytes : List Byte} (h : hostPresent s bytes = .next t) :
    t.phase = s.phase := by
  unfold hostPresent at h
  split at h <;> cases h
  rfl

/-- A register write changes the phase only as a CTRL word with bit 0 set (10_state.md R34 to R36). -/
theorem writeReg_phase {s t : State} {v : Word} {r : Reg} (h : writeReg s v r = .next t) (hne : t.phase ≠ s.phase) :
    r = .ctrl ∧ v.toNat % 2 = 1 := by
  by_cases hr : r = .ctrl
  · subst hr
    rw [writeReg_ctrl] at h
    split at h
    · exact ⟨rfl, ‹_›⟩
    · cases h
      exact absurd rfl hne
  · rw [writeReg_of_ne_ctrl hr] at h
    cases h
    exact absurd rfl hne

/-- Apart from the engine, reset and a CTRL word with bit 0 set are the events that change the phase. -/
theorem eventStep_phase {e : HostEvent} {s t : State} (h : eventStep e s = .next t) (hne : t.phase ≠ s.phase) :
    e = .engine ∨ e = .reset ∨ ∃ v, e = .regWrite s.cfg.regBase 4 v ∧ v.toNat % 2 = 1 := by
  cases e with
  | engine => exact .inl rfl
  | present bytes => exact absurd (hostPresent_phase h) hne
  | regRead addr size =>
    simp only [eventStep] at h
    split at h <;> cases h
    exact absurd rfl hne
  | regWrite addr size v =>
    simp only [eventStep] at h
    split at h
    · rename_i r hr
      obtain ⟨rfl, hodd⟩ := writeReg_phase h hne
      obtain ⟨rfl, rfl⟩ := regOf_ctrl hr
      exact .inr (.inr ⟨v, rfl, hodd⟩)
    · cases h
  | outRead pos => exact absurd (hostOutRead_phase h) hne
  | outWrite pos b => exact absurd (hostOutWrite_phase h) hne
  | reset => exact .inr (.inl rfl)

end Sys2Proof.Machine

namespace Sys2Proof

open Sys2Proof.Machine

/-- Settles O33: no element is selected there, and of the host's events two change the phase. -/
theorem doneAndErrorAreTerminal : Obligations.DoneAndErrorAreTerminal := by
  intro s hend
  have hstay : engineStep s = .next s := engineStep_of_none (nextContext_of_ended hend)
  refine ⟨hstay, fun e t h hne => ?_, s.started s.port, ?_, rfl, rfl, rfl⟩
  · obtain rfl | hhost := eventStep_phase h hne
    · obtain rfl : s = t := by simpa [eventStep, hstay] using h
      exact absurd rfl hne
    · exact hhost
  · rw [exec_start, State.start_of_not_busy (busy_of_ended hend)]

end Sys2Proof
end

section
/-! The elements of the main loop run by `exec`: Advance, FLAG, LIT, the zero-length token, and the frame of the two steps that
store a byte (41_main_loop.md R121 to R125, 42_copy_engine.md R140). -/

namespace Sys2Proof.Machine

variable {s t : State}

/-! ### Advance -/

/-- Advance goes where the numbers of bytes produced and asked for say (41_main_loop.md R125). -/
theorem State.phaseAfter_eq (s : State) (n : Fin 8) :
    s.phaseAfter n = phaseOnceHandled n s.outLen.toNat s.targetLen.toNat := by
  unfold State.phaseAfter phaseOnceHandled
  simp only [BitVec.le_def]
  split
  · rfl
  · by_cases hlast : n = 7
    · subst hlast
      rfl
    · have hlt : n.val < 7 := by omega
      have hnext : n + 1 = ⟨n.val + 1, by omega⟩ :=
        Fin.ext (Fin.val_add_one_of_lt (n := 7) hlt)
      rw [if_neg hlast, dif_pos hlt, hnext]

theorem State.advance_eq (s : State) (n : Fin 8) :
    s.advance n = { s with phase := phaseOnceHandled n s.outLen.toNat s.targetLen.toNat } := by
  rw [← State.phaseAfter_eq]
  rfl

/-! ### FLAG and LIT -/

/-- FLAG in NEED_FLAG (41_main_loop.md R121). -/
theorem exec_flag_completes (hp : s.phase = .needFlag) (f : Byte) :
    exec (.flag f) s = .next { s with inPos := s.inPos + 1, flag := f, phase := .bit 0 } :=
  execFlag_next.2 ⟨hp, rfl⟩

/-- Where no byte is left FLAG raises and reads nothing (60_exceptions.md R202). -/
theorem engineStep_needFlag_of_empty (hp : s.phase = .needFlag) (hr : s.remaining = []) :
    engineStep s = .next (s.raise .unexpectedEof 0) := by
  have hc : nextContext s = some .flagByte := nextContext_eq_some_iff.2 hp
  rw [engineStep_of_some hc, hr, decode, decodeFlag, runDecoded, hr, List.length_nil, State.consume_zero]

/-- OutAppend below the target does not wrap `out_len` (10_state.md R26). -/
theorem toNat_outLen_succ (h : s.outLen.toNat < s.targetLen.toNat) : (s.outLen + 1).toNat = s.outLen.toNat + 1 := by
  bv_omega

/-! ### The zero-length token -/

/-- A zero-length token that reaches no further than the output (41_main_loop.md R124). -/
theorem tokenStep_zero_length {n : Fin 8} {v : Variant} {d : BitVec 12} (hp : s.phase = .bit n)
    (hf : flagBit s.flag n = true) (hv : s.variant = v) (hd : d.toNat + 1 ≤ s.outLen.toNat) (w : Nat) :
    tokenStep v 0 (distanceOf d) w s = .next
      { s with inPos := s.inPos + BitVec.ofNat 64 w, phase := phaseOnceHandled n s.outLen.toNat s.targetLen.toNat } := by
  have hnear : ¬ (s.consume w).outLen < wideDistance (distanceOf d) := by
    simpa [BitVec.lt_def] using hd
  refine tokenStep_next.2 ⟨n, hp, hf, hv, ?_⟩
  rw [backRef, if_neg hnear, if_pos rfl, State.advance_eq]
  rfl

/-- With a bias of 0 the field 0 is the length 0 (30_encoding.md R81). -/
theorem lengthRef11M_zero {c : Config} (h : c.bias3 = 0) : lengthRef11M c 0 = 0 := by
  simp [lengthRef11M, h]

theorem lengthRef11L_zero {c : Config} (h : c.bias4 = 0) : lengthRef11L c 0 = 0 := by
  simp [lengthRef11L, h]

/-! ### The frames of LIT and COPY -/

/-- The end of a copy step writes `copy_rem` and the phase. -/
theorem copyTail_eq (n : Fin 8) (s : State) :
    copyTail n s = { s with copyRem := (copyTail n s).copyRem, phase := (copyTail n s).phase } := by
  obtain ⟨-, h⟩ | ⟨-, -, h⟩ := copyTail_cases n s <;> rw [h]

theorem exec_lit_frame {v : Byte} (h : exec (.lit v) s = .next t) :
    t = { s with inPos := t.inPos, out := t.out, outLen := t.outLen, phase := t.phase }
      ∧ ∀ a, a ≠ s.outLen.toNat → t.out.read a = s.out.read a := by
  obtain ⟨n, -, -, -, rfl⟩ := execLit_next.1 h
  exact ⟨rfl, fun a ha => Memory.read_write_other _ _ ha⟩

theorem exec_copy_frame (h : exec .copy s = .next t) :
    t = { s with out := t.out, outLen := t.outLen, copyRem := t.copyRem, phase := t.phase, draws := t.draws }
      ∧ t.draws = (s.afterOutRead (copySource s).toNat).draws
      ∧ ∀ a, a ≠ s.outLen.toNat → t.out.read a = s.out.read a := by
  obtain ⟨n, -, -, rfl⟩ := execCopy_next.1 h
  rw [copyTail_eq, State.afterOutRead_eq]
  exact ⟨rfl, rfl, fun a ha => Memory.read_write_other _ _ ha⟩

end Sys2Proof.Machine

namespace Sys2Proof

open Sys2Proof.Machine

/-- Settles O34: the spec's two tests, on numbers. -/
theorem advanceMovesToTheNextBit : Obligations.AdvanceMovesToTheNextBit := by
  intro s n
  refine ⟨s.advance_eq n, fun hle hdone => BitVec.le_antisymm hle ?_⟩
  exact s.advance_doneAtTarget n hdone

/-- Settles O35: the flag byte loaded, the flag byte missing, and the invariant after the step, which bounds `out_len` in
NEED_FLAG. -/
theorem flagByteCompletes : Obligations.FlagByteCompletes := by
  refine ⟨fun s f hp => exec_flag_completes hp f, fun s hp hr => engineStep_needFlag_of_empty hp hr, ?_⟩
  intro s t hinv hstep hp
  have hdecoding : t.phase.decoding = true := by rw [hp]; rfl
  exact (hinv.engineStep hstep).outLen_lt hdecoding

/-- Settles O36: OutAppend stores at the old `out_len`, and Advance sees the new one. -/
theorem literalCompletes : Obligations.LiteralCompletes := by
  intro s n v hp hf hcap hlt
  have hlen := toNat_outLen_succ hlt
  refine ⟨_, execLit_next.2 ⟨n, hp, hf, hcap, rfl⟩, Memory.read_write_same _ _ _,
    fun a ha => Memory.read_write_other _ _ ha, hlen, ?_⟩
  rw [← hlen, State.advance_eq]
  rfl

/-- Settles O39: either tier is a token step of length 0. -/
theorem zeroLengthTokenIsSkipped : Obligations.ZeroLengthTokenIsSkipped := by
  intro s n d hp hf hv hd
  have hskip := tokenStep_zero_length hp hf hv hd
  refine ⟨fun hbias => ?_, fun hbias => ?_⟩
  · rw [exec, execRef11m, lengthRef11M_zero hbias]
    exact hskip 3
  · rw [exec, execRef11l, lengthRef11L_zero hbias]
    exact hskip 4

/-- Settles O44: a draw needs a source position without a byte. -/
theorem storingStepsKeepTheRest : Obligations.StoringStepsKeepTheRest := by
  intro s t
  refine ⟨fun v h => exec_lit_frame h, fun h => ?_⟩
  obtain ⟨hframe, hdraws, hreads⟩ := exec_copy_frame h
  refine ⟨hframe, fun hsome => ?_, hreads⟩
  rw [hdraws, State.afterOutRead, if_pos hsome]

end Sys2Proof
end

section
/-! The engine's step always answers (41_main_loop.md R127): every element that the state selects completes where OUT has room,
but a header whose length exceeds OUT_CAPACITY (40_header.md R108). -/

namespace Sys2Proof.Machine

variable {s : State}

theorem headerStep_answers (hp : s.phase = .header) (v : Variant) (e : Bool) (len : BitVec 32) (w : Nat) :
    (∃ t, headerStep v e len w s = .next t)
      ∨ (s.phase = .header ∧ headerStep v e len w s = .refused .outCapacityExceeded) := by
  by_cases hfit : len.toNat ≤ s.cfg.outCapacity
  · exact .inl ⟨_, headerStep_next.2 ⟨hp, hfit, rfl⟩⟩
  · exact .inr ⟨hp, headerStep_capacity.2 ⟨hp, Nat.lt_of_not_le hfit⟩⟩

theorem tokenStep_answers {v : Variant} (hsel : ∃ n, s.phase = .bit n ∧ flagBit s.flag n = true ∧ s.variant = v)
    (len : BitVec 17) (dist : BitVec 13) (w : Nat) : ∃ t, tokenStep v len dist w s = .next t := by
  obtain ⟨n, hp, hf, hv⟩ := hsel
  exact ⟨_, tokenStep_next.2 ⟨n, hp, hf, hv, rfl⟩⟩

/-- An element run where its context is selected (30_encoding.md R70). -/
theorem exec_answers {i : Instr} (hsel : s.Selects i.context)
    (hroom : s.phase.decoding = true → s.outLen.toNat < s.cfg.outCapacity) :
    (∃ t, exec i s = .next t) ∨ (s.phase = .header ∧ exec i s = .refused .outCapacityExceeded) := by
  cases i with
  | hdr10 n => exact headerStep_answers hsel ..
  | hdr11 n => exact headerStep_answers hsel ..
  | hdr10x n => exact headerStep_answers hsel ..
  | hdr11x n => exact headerStep_answers hsel ..
  | flag f => exact .inl ⟨_, execFlag_next.2 ⟨hsel, rfl⟩⟩
  | lit v =>
    obtain ⟨n, hp, hf⟩ := hsel
    exact .inl ⟨_, execLit_next.2 ⟨n, hp, hf, hroom (hp ▸ rfl), rfl⟩⟩
  | ref10 l d => exact .inl (tokenStep_answers hsel ..)
  | ref11s l d => exact .inl (tokenStep_answers hsel ..)
  | ref11m l d => exact .inl (tokenStep_answers hsel ..)
  | ref11l l d => exact .inl (tokenStep_answers hsel ..)
  | copy =>
    obtain ⟨n, hp⟩ := hsel
    exact .inl ⟨_, execCopy_next.2 ⟨n, hp, hroom (hp ▸ rfl), rfl⟩⟩
  | start => exact .inl ⟨_, rfl⟩

theorem engineStep_answers (hroom : s.phase.decoding = true → s.outLen.toNat < s.cfg.outCapacity) :
    (∃ t, engineStep s = .next t) ∨ (s.phase = .header ∧ engineStep s = .refused .outCapacityExceeded) := by
  cases hc : nextContext s with
  | none => exact .inl ⟨s, engineStep_of_none hc⟩
  | some c =>
    rw [engineStep_of_some hc]
    cases hd : decode c s.remaining with
    | ok i rest =>
      obtain rfl : i.context = c := context_of_decode_ok hd
      exact exec_answers (nextContext_eq_some_iff.1 hc) hroom
    | truncated => exact .inl ⟨_, rfl⟩
    | invalidTag tag => exact .inl ⟨_, rfl⟩
    | noCommand => exact .inl ⟨_, rfl⟩

/-- Below the target OUT has room (40_header.md R108). -/
theorem State.Inv.room (h : s.Inv) (hd : s.phase.decoding = true) : s.outLen.toNat < s.cfg.outCapacity :=
  Nat.lt_of_lt_of_le (BitVec.lt_def.1 (h.outLen_lt hd)) (h.producing hd).fits

end Sys2Proof.Machine

namespace Sys2Proof

open Sys2Proof.Machine

/-- Settles O47: the invariant gives OUT the room for the byte that a literal or a copy step appends. -/
theorem engineStepAlwaysAnswers : Obligations.EngineStepAlwaysAnswers :=
  fun _ hinv => engineStep_answers hinv.room

end Sys2Proof
end

section
/-! Every decode ends (41_main_loop.md R129): between the header and the end of the decode each step reads a byte of the stream
or produces one of OUT. START leaves OUT as the host left it, so the invariant is used up to what OUT holds. -/

namespace Sys2Proof.Machine

variable {s t : State}

/-! ### The invariant of a started decode -/

/-- The state meets the invariant with some other OUT and draw counter in place of its own. -/
def State.InvButOut (s : State) : Prop := ∃ m j, (s.withOut m j).Inv

theorem State.InvButOut.engineStep (h : s.InvButOut) (hx : engineStep s = .next t) : t.InvButOut := by
  obtain ⟨m, j, hinv⟩ := h
  obtain ⟨m', j', hx'⟩ := engineStep_withOut hx m j
  exact ⟨m', j', hinv.engineStep hx'⟩

/-- START clears what the invariant speaks of, OUT apart (41_main_loop.md R120). -/
theorem State.started_invButOut (hwf : s.cfg.wf = true) (bytes : List Byte) : (s.started bytes).InvButOut :=
  ⟨[], 0,
    { State.reset_inv.started bytes with
      copy_ok := nofun
      fits := nofun
      cfg_wf := hwf }⟩

theorem State.InvButOut.outLen_lt (h : s.InvButOut) (hd : s.phase.decoding = true) :
    s.outLen.toNat < s.targetLen.toNat := by
  obtain ⟨m, j, hinv⟩ := h
  exact BitVec.lt_def.1 (hinv.outLen_lt hd)

theorem State.InvButOut.room (h : s.InvButOut) (hd : s.phase.decoding = true) :
    s.outLen.toNat < s.cfg.outCapacity := by
  obtain ⟨m, j, hinv⟩ := h
  exact hinv.room hd

/-- `in_pos` is no further than the end of the stream. -/
theorem State.InvButOut.inPos_le (h : s.InvButOut) {bytes : List Byte} (hin : s.input = some bytes)
    (hb : s.phase.busy = true) : s.inPos.toNat ≤ bytes.length := by
  obtain ⟨m, j, hinv⟩ := h
  obtain ⟨bytes', hin', hle⟩ := hinv.input_ok hb
  obtain rfl : bytes' = bytes := Option.some.inj (hin'.symm.trans hin)
  exact hle

/-! ### Where a step of a decode leads -/

theorem Phase.ne_header_of_decoding {p : Phase} (h : p.decoding = true) : p ≠ .header := by
  rintro rfl
  cases h

/-- An element is selected exactly while BUSY (41_main_loop.md R127). -/
theorem nextContext_isSome (s : State) : (nextContext s).isSome = s.phase.busy := by
  unfold nextContext
  cases hp : s.phase with
  | bit n =>
    dsimp only
    split
    · cases s.variant <;> rfl
    · rfl
  | _ => rfl

theorem nextContext_ne_none (hb : s.phase.busy = true) : nextContext s ≠ none := by
  rw [← nextContext_isSome] at hb
  exact Option.isSome_iff_ne_none.1 hb

theorem busy_of_nextContext {c : Context} (hc : nextContext s = some c) : s.phase.busy = true := by
  rw [← nextContext_isSome, hc]
  rfl

/-- The phases that a running decode can go to: it goes on after its header, or it has ended. -/
def Phase.afterHeader (p : Phase) : Prop := p.decoding = true ∨ p = .done ∨ p = .error

theorem State.phaseAfter_afterHeader (s : State) (n : Fin 8) : (s.phaseAfter n).afterHeader := by
  obtain ⟨h, -⟩ | ⟨h | ⟨m, h⟩, -⟩ := s.phaseAfter_cases n <;> rw [h]
  · exact .inr (.inl rfl)
  · exact .inl rfl
  · exact .inl rfl

theorem backRef_afterHeader (n : Fin 8) (len : BitVec 17) (dist : BitVec 13) (s : State) :
    (backRef n len dist s).phase.afterHeader := by
  obtain ⟨-, h⟩ | ⟨-, -, h⟩ | ⟨-, -, h⟩ := backRef_cases n len dist s <;> rw [h]
  · exact .inr (.inr rfl)
  · exact s.phaseAfter_afterHeader n
  · exact .inl rfl

theorem copyTail_afterHeader {n : Fin 8} (hp : s.phase = .copy n) : (copyTail n s).phase.afterHeader := by
  obtain ⟨-, h⟩ | ⟨-, -, h⟩ := copyTail_cases n s <;> rw [h]
  · exact s.phaseAfter_afterHeader n
  · exact .inl (by simp only [hp, Phase.decoding])

/-- No step of a running decode goes back to IDLE or HEADER. -/
theorem EngineMove.afterHeader (h : EngineMove s t) (hb : s.phase.busy = true) : t.phase.afterHeader := by
  cases h with
  | stay hc => exact absurd hc (nextContext_ne_none hb)
  | endOfInput _ _ _ => exact .inr (.inr rfl)
  | badTag _ _ _ _ _ _ => exact .inr (.inr rfl)
  | header v e len width _ _ =>
    rw [State.headerAccepted_phase]
    split
    · exact .inr (.inl rfl)
    · exact .inl rfl
  | flag _ _ => exact .inl rfl
  | lit v n _ _ _ => exact State.phaseAfter_afterHeader _ n
  | token len dist width n _ _ => exact backRef_afterHeader n len dist _
  | copy n hp _ =>
    refine copyTail_afterHeader ?_
    rw [State.appended_phase, State.afterOutRead_eq]
    exact hp

theorem ended_iff : s.ended = true ↔ s.phase = .done ∨ s.phase = .error := by
  simp [State.ended]

theorem EngineMove.decoding_or_ended (h : EngineMove s t) (hb : s.phase.busy = true) :
    t.phase.decoding = true ∨ t.ended = true :=
  (h.afterHeader hb).imp_right ended_iff.2

theorem backRef_input (n : Fin 8) (len : BitVec 17) (dist : BitVec 13) (s : State) :
    (backRef n len dist s).input = s.input := by
  obtain ⟨-, h⟩ | ⟨-, -, h⟩ | ⟨-, -, h⟩ := backRef_cases n len dist s <;> rw [h] <;> rfl

/-- The engine keeps the stream that START bound (20_memory.md R51). -/
theorem EngineMove.input_eq (h : EngineMove s t) : t.input = s.input := by
  cases h with
  | token len dist width n _ _ => exact backRef_input n len dist (s.consume width)
  | copy n _ _ => rw [copyTail_eq, State.afterOutRead_eq]; rfl
  | _ => rfl

/-- Only a header sets `target_len` (10_state.md R23). -/
theorem EngineMove.targetLen_eq (h : EngineMove s t) (hp : s.phase ≠ .header) : t.targetLen = s.targetLen := by
  cases h with
  | header _ _ _ _ hh _ => exact absurd hh hp
  | token len dist width n _ _ =>
    obtain ⟨-, -, htarget, -⟩ := backRef_frame n len dist (s.consume width)
    exact htarget
  | copy n _ _ => rw [copyTail_eq, State.afterOutRead_eq]; rfl
  | _ => rfl

/-! ### A step makes progress -/

/-- A literal and a copy step append one byte. -/
theorem exec_storing_outLen {i : Instr} (hc : i.context = .literal ∨ i.context = .copyStep) (h : exec i s = .next t) :
    t.outLen = s.outLen + 1 := by
  cases i with
  | lit v =>
    obtain ⟨n, -, -, -, rfl⟩ := execLit_next.1 h
    rfl
  | copy =>
    obtain ⟨n, -, -, rfl⟩ := execCopy_next.1 h
    rw [copyTail_eq, State.afterOutRead_eq]
    rfl
  | _ => simp [Instr.context] at hc

/-- Every other element appends none. -/
theorem exec_keeps_outLen {i : Instr} (hlit : i.context ≠ .literal) (hcopy : i.context ≠ .copyStep) (hi : i ≠ .start)
    (h : exec i s = .next t) : t.outLen = s.outLen := by
  cases hc : i.context with
  | header => rw [exec_header_frame hc h]
  | flagByte => rw [exec_flag_frame hc h]
  | literal => exact absurd hc hlit
  | token10 => rw [(exec_token_frame (.inl hc) h).1]
  | token11 => rw [(exec_token_frame (.inr hc) h).1]
  | copyStep => exact absurd hc hcopy
  | ctrlWrite => exact absurd (eq_start_of_context hc) hi

/-- Only a copy step reads no byte (30_encoding.md R85). -/
theorem width_pos_of_context {i : Instr} (hc : i.context ≠ .copyStep) : 0 < i.width := by
  cases i with
  | copy => exact absurd rfl hc
  | _ => simp [Instr.width]

/-- Below the target every element reads a byte or produces one. -/
theorem exec_progress {i : Instr} (hi : i ≠ .start) (hlt : s.outLen.toNat < s.targetLen.toNat)
    (h : exec i s = .next t) :
    s.outLen.toNat ≤ t.outLen.toNat ∧ s.outLen.toNat < t.outLen.toNat + i.width := by
  by_cases hc : i.context = .literal ∨ i.context = .copyStep
  · have hlen : t.outLen.toNat = s.outLen.toNat + 1 := by
      rw [exec_storing_outLen hc h, toNat_outLen_succ hlt]
    omega
  · obtain ⟨hlit, hcopy⟩ := not_or.1 hc
    have hwidth := width_pos_of_context hcopy
    rw [exec_keeps_outLen hlit hcopy hi h]
    omega

/-- Bytes that were there and are read are no longer left. -/
theorem length_remaining_read {k : Nat} (hlen : s.inputBytes.length < 2 ^ 64) (hk : k ≤ s.remaining.length)
    (hin : t.input = s.input) (hpos : t.inPos = s.inPos + BitVec.ofNat 64 k) :
    t.remaining.length + k = s.remaining.length := by
  have hs : s.remaining.length = s.inputBytes.length - s.inPos.toNat := List.length_drop
  have ht : t.remaining.length = s.inputBytes.length - t.inPos.toNat := by
    simp only [State.remaining, State.inputBytes, hin, List.length_drop]
  have hnat : t.inPos.toNat = s.inPos.toNat + k := by
    rw [hpos, BitVec.toNat_add, BitVec.toNat_ofNat]
    omega
  omega

/-- How many bytes are left to read and to produce: a bound on the steps that are left after the header. -/
def State.left (s : State) : Nat := s.remaining.length + (s.targetLen.toNat - s.outLen.toNat)

/-- A step of a decode after its header ends it, or leaves less to do. -/
theorem engineStep_left_lt (h : s.InvButOut) (hd : s.phase.decoding = true) (hlen : s.inputBytes.length < 2 ^ 64)
    (hx : engineStep s = .next t) : t.ended = true ∨ (t.phase.decoding = true ∧ t.left < s.left) := by
  have hb := Phase.busy_of_decoding hd
  have hmove := engineStep_move hx
  have hnh := Phase.ne_header_of_decoding hd
  have hlt := h.outLen_lt hd
  obtain ⟨hc, -⟩ | ⟨c, i, rest, hc, hdec, hi⟩ | ⟨c, -, -, rfl⟩ | ⟨tag, rest, hp, -⟩ := engineStep_next hx
  · exact absurd hc (nextContext_ne_none hb)
  · refine (hmove.decoding_or_ended hb).symm.imp_right fun hdt => ⟨hdt, ?_⟩
    have hstart := ne_start_of_selected hc hdec
    have hread := length_remaining_read hlen (width_le_of_decode_ok hdec) hmove.input_eq (inPos_of_exec hstart hi)
    obtain ⟨hle, hprog⟩ := exec_progress hstart hlt hi
    rw [State.left, State.left, hmove.targetLen_eq hnh]
    omega
  · exact .inl rfl
  · exact absurd hp hnh

/-- So a decode after its header ends within as many steps as there are bytes left to read and to produce. -/
theorem run_ends {n : Nat} (h : s.InvButOut) (hev : s.events = []) (hd : s.phase.decoding = true)
    (hlen : s.inputBytes.length < 2 ^ 64) (hn : s.left ≤ n) :
    ∃ k t, run k s = .next t ∧ t.ended = true ∧ t.targetLen = s.targetLen ∧ k ≤ n := by
  induction n generalizing s with
  | zero =>
    have hlt := h.outLen_lt hd
    rw [State.left] at hn
    omega
  | succ n ih =>
    have hnh := Phase.ne_header_of_decoding hd
    obtain ⟨t, hx⟩ | ⟨hp, -⟩ := engineStep_answers h.room
    · have hmove := engineStep_move hx
      have hstep : step s = .next t := (step_engine hev).trans hx
      have htarget := hmove.targetLen_eq hnh
      obtain hend | ⟨hdt, hless⟩ := engineStep_left_lt h hd hlen hx
      · exact ⟨1, t, run_succ_of_next hstep 0, hend, htarget, by omega⟩
      · have hlent : t.inputBytes.length < 2 ^ 64 := by rwa [State.inputBytes, hmove.input_eq]
        obtain ⟨k, u, hrun, hend, htu, hk⟩ :=
          ih (h.engineStep hx) (hmove.events_eq.trans hev) hdt hlent (by omega)
        exact ⟨k + 1, u, (run_succ_of_next hstep k).trans hrun, hend, htu.trans htarget, by omega⟩
    · exact absurd hp hnh

end Sys2Proof.Machine

namespace Sys2Proof

open Sys2Proof.Machine

/-- Settles O49: one step for the header, then one for each byte left to read or to produce at most. -/
theorem everyDecodeEndsWithinTheBound : Obligations.EveryDecodeEndsWithinTheBound := by
  intro s bytes hev hwf hlen
  have h := State.started_invButOut hwf bytes
  have hstep : step (s.started bytes) = engineStep (s.started bytes) := step_engine hev
  obtain ⟨t, hx⟩ | ⟨-, hrefused⟩ := engineStep_answers h.room
  · left
    have hrun := run_succ_of_next (hstep.trans hx)
    have hmove := engineStep_move hx
    obtain hd | hend := hmove.decoding_or_ended rfl
    · have hin : t.inputBytes = bytes := by rw [State.inputBytes, hmove.input_eq]; rfl
      have hleft : t.left ≤ bytes.length + t.targetLen.toNat := by
        rw [State.left, State.remaining, hin, List.length_drop]
        omega
      obtain ⟨k, u, hk, hend, htarget, hle⟩ :=
        run_ends (h.engineStep hx) (hmove.events_eq.trans hev) hd (hin ▸ hlen) hleft
      exact ⟨k + 1, u, (hrun k).trans hk, hend, by rw [htarget]; omega⟩
    · exact ⟨1, t, hrun 0, hend, by omega⟩
  · right
    rw [run, hstep, hrefused]

end Sys2Proof
end

section
/-! Trailing input (41_main_loop.md R126, 20_memory.md R59): an element that ends inside the stream is read alike whatever bytes
follow the stream. -/

namespace Sys2Proof.Machine

variable {s t : State}

/-- The state with another bound input. -/
def State.withInput (s : State) (bytes : List Byte) : State := { s with input := some bytes }

/-! ### No operation but START touches the bound input -/

theorem backRef_withInput (n : Fin 8) (len : BitVec 17) (dist : BitVec 13) (s : State) (bs : List Byte) :
    backRef n len dist (s.withInput bs) = (backRef n len dist s).withInput bs := by
  simp only [backRef, apply_ite (State.withInput · bs)]
  rfl

theorem copyTail_withInput (n : Fin 8) (s : State) (bs : List Byte) :
    copyTail n (s.withInput bs) = (copyTail n s).withInput bs := by
  simp only [copyTail, apply_ite (State.withInput · bs)]
  rfl

theorem afterOutRead_withInput (s : State) (a : Nat) (bs : List Byte) :
    (s.withInput bs).afterOutRead a = (s.afterOutRead a).withInput bs := by
  simp only [State.afterOutRead, apply_ite (State.withInput · bs)]
  rfl

theorem headerStep_withInput {v : Variant} {e : Bool} {len : BitVec 32} {w : Nat}
    (h : headerStep v e len w s = .next t) (bs : List Byte) :
    headerStep v e len w (s.withInput bs) = .next (t.withInput bs) := by
  obtain ⟨hp, hfit, rfl⟩ := headerStep_next.1 h
  exact headerStep_next.2 ⟨hp, hfit, rfl⟩

theorem tokenStep_withInput {v : Variant} {len : BitVec 17} {dist : BitVec 13} {w : Nat}
    (h : tokenStep v len dist w s = .next t) (bs : List Byte) :
    tokenStep v len dist w (s.withInput bs) = .next (t.withInput bs) := by
  obtain ⟨n, hp, hf, hv, rfl⟩ := tokenStep_next.1 h
  exact tokenStep_next.2 ⟨n, hp, hf, hv, (backRef_withInput n len dist (s.consume w) bs).symm⟩

theorem exec_withInput {i : Instr} (hi : i ≠ .start) (h : exec i s = .next t) (bs : List Byte) :
    exec i (s.withInput bs) = .next (t.withInput bs) := by
  cases i with
  | hdr10 n => exact headerStep_withInput h bs
  | hdr11 n => exact headerStep_withInput h bs
  | hdr10x n => exact headerStep_withInput h bs
  | hdr11x n => exact headerStep_withInput h bs
  | flag f =>
    obtain ⟨hp, rfl⟩ := execFlag_next.1 h
    exact execFlag_next.2 ⟨hp, rfl⟩
  | lit v =>
    obtain ⟨n, hp, hf, hfit, rfl⟩ := execLit_next.1 h
    exact execLit_next.2 ⟨n, hp, hf, hfit, rfl⟩
  | ref10 l d => exact tokenStep_withInput h bs
  | ref11s l d => exact tokenStep_withInput h bs
  | ref11m l d => exact tokenStep_withInput h bs
  | ref11l l d => exact tokenStep_withInput h bs
  | copy =>
    obtain ⟨n, hp, hfit, rfl⟩ := execCopy_next.1 h
    refine execCopy_next.2 ⟨n, hp, hfit, ?_⟩
    rw [← copyTail_withInput]
    congr 1
    exact congrArg (State.appended · _) (afterOutRead_withInput s (copySource s).toNat bs).symm
  | start => exact absurd rfl hi

/-! ### Bytes after the stream -/

/-- What follows an element is left over as it is (30_encoding.md §2). -/
theorem decode_append {c : Context} {bs rest : List Byte} {i : Instr} (hc : c ≠ .ctrlWrite)
    (h : decode c bs = .ok i rest) (trailing : List Byte) :
    decode c (bs ++ trailing) = .ok i (rest ++ trailing) := by
  obtain rfl : i.context = c := context_of_decode_ok h
  rw [bytes_of_decode_ok hc h, List.append_assoc]
  exact decodeEncodeRoundTrip i (rest ++ trailing) (wellFormed_of_decode_ok h)

/-- While `in_pos` stands inside the stream the bytes after it are the last to be read. -/
theorem remaining_withInput_append {bytes : List Byte} (hin : s.input = some bytes) (hpos : s.inPos.toNat ≤ bytes.length)
    (trailing : List Byte) : (s.withInput (bytes ++ trailing)).remaining = s.remaining ++ trailing := by
  simp only [State.remaining, State.inputBytes, State.withInput, hin, Option.getD_some]
  exact List.drop_append_of_le_length hpos

/-- A step that does not end in ERROR is the same step with any bytes after the stream. -/
theorem engineStep_withTrailing {bytes : List Byte} (hin : s.input = some bytes) (hinv : s.InvButOut)
    (hx : engineStep s = .next t) (hne : t.phase ≠ .error) (trailing : List Byte) :
    engineStep (s.withInput (bytes ++ trailing)) = .next (t.withInput (bytes ++ trailing)) := by
  obtain ⟨hc, rfl⟩ | ⟨c, i, rest, hc, hd, hi⟩ | ⟨c, -, -, rfl⟩ | ⟨tag, rest, -, -, -, -, rfl⟩ := engineStep_next hx
  · exact engineStep_of_none hc
  · have hctrl : c ≠ .ctrlWrite := fun h => nextContext_ne_ctrlWrite s (h ▸ hc)
    have hpos : s.inPos.toNat ≤ bytes.length := hinv.inPos_le hin (busy_of_nextContext hc)
    have hc' : nextContext (s.withInput (bytes ++ trailing)) = some c := hc
    rw [engineStep_of_some hc', remaining_withInput_append hin hpos, decode_append hctrl hd]
    exact exec_withInput (ne_start_of_selected hc hd) hi _
  · exact absurd rfl hne
  · exact absurd rfl hne

/-- ERROR lasts: a run that ends in another phase does not pass through it (60_exceptions.md R207). -/
theorem phase_ne_error_of_run {k : Nat} (hev : s.events = []) (hrun : run k s = .next t) (hne : t.phase ≠ .error) :
    s.phase ≠ .error := by
  have hkeep : ∀ u v, EngineMove u v → u.phase = .error → v.phase = .error := by
    intro u v hmove hp
    cases hmove with
    | stay _ => exact hp
    | endOfInput _ _ _ => rfl
    | badTag _ _ _ _ _ _ => rfl
    | header _ _ _ _ hh _ => cases hp.symm.trans hh
    | flag _ hh => cases hp.symm.trans hh
    | lit _ _ hh _ _ => cases hp.symm.trans hh
    | token _ _ _ _ hh _ => cases hp.symm.trans hh
    | copy _ hh _ => cases hp.symm.trans hh
  exact fun hp => hne (run_keeps_of_engineMove hkeep hev hrun hp)

/-- So is a run that does not end in ERROR. -/
theorem run_withTrailing {bytes : List Byte} {k : Nat} (hin : s.input = some bytes) (hinv : s.InvButOut)
    (hev : s.events = []) (hrun : run k s = .next t) (hne : t.phase ≠ .error) (trailing : List Byte) :
    run k (s.withInput (bytes ++ trailing)) = .next (t.withInput (bytes ++ trailing)) := by
  induction k generalizing s with
  | zero =>
    obtain rfl : s = t := by simpa using hrun
    rfl
  | succ k ih =>
    obtain ⟨u, hstep, hrest⟩ := run_succ_next hrun
    rw [step_engine hev] at hstep
    have hmove := engineStep_move hstep
    have hevu : u.events = [] := hmove.events_eq.trans hev
    have hstep' := engineStep_withTrailing hin hinv hstep (phase_ne_error_of_run hevu hrest hne) trailing
    have hev' : (s.withInput (bytes ++ trailing)).events = [] := hev
    rw [run_succ_of_next ((step_engine hev').trans hstep') k]
    exact ih (hmove.input_eq.trans hin) (hinv.engineStep hstep) hevu hrest

end Sys2Proof.Machine

namespace Sys2Proof

open Sys2Proof.Machine

/-- Settles O51: a decode that ends in DONE passes through no error, and its elements end inside the stream. -/
theorem trailingInputIsNeverRead : Obligations.TrailingInputIsNeverRead := by
  intro s t bytes trailing k hev hwf hrun hdone
  have hne : t.phase ≠ .error := by rw [hdone]; nofun
  exact run_withTrailing (s := s.started bytes) rfl (State.started_invButOut hwf bytes) hev hrun hne trailing

end Sys2Proof
end

section
/-! A decode does not depend on what the block held before START (41_main_loop.md R120): the flag byte and the copy registers are
written before they are read, and a copy reads OUT below `out_len` only (20_memory.md R52, 42_copy_engine.md R144). -/

namespace Sys2Proof.Machine

/-! ### Two memories that hold the same bytes -/

/-- Below n both memories hold a byte at every position, and the same one. -/
def Memory.AgreeBelow (m m' : Memory) (n : Nat) : Prop := ∀ a, a < n → ∃ b, m.read a = some b ∧ m'.read a = some b

theorem Memory.agreeBelow_zero (m m' : Memory) : m.AgreeBelow m' 0 := fun a ha => absurd ha (Nat.not_lt_zero a)

/-- The same byte written at n. -/
theorem Memory.AgreeBelow.write {m m' : Memory} {n k : Nat} (h : m.AgreeBelow m' n) (b : Byte) (hk : k ≤ n + 1) :
    (m.write n b).AgreeBelow (m'.write n b) k := by
  intro a ha
  by_cases hn : a = n
  · subst hn
    exact ⟨b, Memory.read_write_same _ _ _, Memory.read_write_same _ _ _⟩
  · rw [Memory.read_write_other _ _ hn, Memory.read_write_other _ _ hn]
    exact h a (by omega)

theorem Memory.AgreeBelow.outPrefix_eq {m m' : Memory} {n k : Nat} (h : m.AgreeBelow m' n) (hk : k ≤ n) :
    outPrefix m' k = outPrefix m k := by
  induction k with
  | zero => rfl
  | succ k ih =>
    obtain ⟨b, hb, hb'⟩ := h k hk
    simp only [outPrefix, ih (Nat.le_of_succ_le hk), hb, hb']

/-! ### The same decode on another block -/

/-- The state with what another one holds in the fields that START leaves as they were (41_main_loop.md R120): the flag byte,
the copy registers, OUT, and of the model's own the port, the last reply and the draw counter. -/
def State.withStale (s old : State) : State :=
  { s with
    flag := old.flag, copyRem := old.copyRem, copyDist := old.copyDist, out := old.out, port := old.port,
    reply := old.reply, draws := old.draws }

/-- Of those fields, what the decode can still read is the same in `old`: the flag byte until its bits are handled, the copy
registers in a copy, and the bytes produced. -/
structure State.AgreesWith (s old : State) : Prop where
  flag : ∀ n, s.phase = .bit n ∨ s.phase = .copy n → old.flag = s.flag
  copy : ∀ n, s.phase = .copy n → old.copyRem = s.copyRem ∧ old.copyDist = s.copyDist
  out : s.out.AgreeBelow old.out s.outLen.toNat

variable {s t old : State}

/-! ### The operations -/

theorem toNat_succ_le {w : Nat} (x : BitVec w) : (x + 1).toNat ≤ x.toNat + 1 := by
  rw [BitVec.toNat_add]
  exact (Nat.mod_le _ _).trans (Nat.add_le_add_left (Nat.mod_le _ _) _)

/-- Where no flag bit is being handled only the bytes produced count. -/
theorem State.AgreesWith.of_out (ho : s.out.AgreeBelow old.out s.outLen.toNat) (hb : ∀ n, s.phase ≠ .bit n)
    (hc : ∀ n, s.phase ≠ .copy n) : s.AgreesWith old where
  flag n hp := hp.elim (absurd · (hb n)) (absurd · (hc n))
  copy n hp := absurd hp (hc n)
  out := ho

/-- Advance never goes to a copy. -/
theorem State.AgreesWith.advance (hag : s.AgreesWith old) (hf : old.flag = s.flag) (n : Fin 8) :
    (s.advance n).AgreesWith old where
  flag _ _ := hf
  copy m hp := by
    rw [State.advance_phase] at hp
    obtain ⟨h, -⟩ | ⟨h | ⟨_, h⟩, -⟩ := s.phaseAfter_cases n <;> cases h.symm.trans hp
  out := hag.out

theorem State.AgreesWith.consume (hag : s.AgreesWith old) (k : Nat) : (s.consume k).AgreesWith old :=
  ⟨hag.flag, hag.copy, hag.out⟩

theorem State.AgreesWith.appended (hag : s.AgreesWith old) (b : Byte) :
    (s.appended b).AgreesWith { old with out := old.out.write s.outLen.toNat b } where
  flag := hag.flag
  copy := hag.copy
  out := hag.out.write b (toNat_succ_le s.outLen)

theorem headerStep_withStale {v : Variant} {e : Bool} {len : BitVec 32} {w : Nat} (hag : s.AgreesWith old)
    (h : headerStep v e len w s = .next t) :
    ∃ old', headerStep v e len w (s.withStale old) = .next (t.withStale old') ∧ t.AgreesWith old' := by
  obtain ⟨hp, hfit, rfl⟩ := headerStep_next.1 h
  refine ⟨old, headerStep_next.2 ⟨hp, hfit, rfl⟩, .of_out hag.out ?_ ?_⟩ <;>
    · intro n
      rw [State.headerAccepted_phase]
      split <;> nofun

theorem backRef_withStale {n : Fin 8} (hp : s.phase = .bit n) (hag : s.AgreesWith old) (len : BitVec 17)
    (dist : BitVec 13) :
    ∃ old', backRef n len dist (s.withStale old) = (backRef n len dist s).withStale old'
      ∧ (backRef n len dist s).AgreesWith old' := by
  have hf := hag.flag n (.inl hp)
  unfold backRef
  by_cases hfar : s.outLen < wideDistance dist
  · rw [if_pos hfar, if_pos (show (s.withStale old).outLen < wideDistance dist from hfar)]
    exact ⟨old, rfl, .of_out hag.out nofun nofun⟩
  · rw [if_neg hfar, if_neg (show ¬ (s.withStale old).outLen < wideDistance dist from hfar)]
    split
    · exact ⟨old, rfl, hag.advance hf n⟩
    · exact ⟨{ old with copyRem := len, copyDist := dist }, rfl, fun _ _ => hf, fun _ _ => ⟨rfl, rfl⟩, hag.out⟩

theorem tokenStep_withStale {v : Variant} {len : BitVec 17} {dist : BitVec 13} {w : Nat} (hag : s.AgreesWith old)
    (h : tokenStep v len dist w s = .next t) :
    ∃ old', tokenStep v len dist w (s.withStale old) = .next (t.withStale old') ∧ t.AgreesWith old' := by
  obtain ⟨n, hp, hbit, hv, rfl⟩ := tokenStep_next.1 h
  obtain ⟨old', heq, hag'⟩ := backRef_withStale (s := s.consume w) hp (hag.consume w) len dist
  have hbit' : flagBit (s.withStale old).flag n = true := hag.flag n (.inl hp) ▸ hbit
  exact ⟨old', tokenStep_next.2 ⟨n, hp, hbit', hv, heq.symm⟩, hag'⟩

theorem execLit_withStale {v : Byte} (hag : s.AgreesWith old) (h : execLit v s = .next t) :
    ∃ old', execLit v (s.withStale old) = .next (t.withStale old') ∧ t.AgreesWith old' := by
  obtain ⟨n, hp, hbit, hfit, rfl⟩ := execLit_next.1 h
  have hf := hag.flag n (.inl hp)
  have hbit' : flagBit (s.withStale old).flag n = false := hf ▸ hbit
  refine ⟨{ old with out := old.out.write s.outLen.toNat v }, execLit_next.2 ⟨n, hp, hbit', hfit, rfl⟩, ?_⟩
  exact ((hag.consume 1).appended v).advance hf n

theorem copyTail_withStale {n : Fin 8} (hp : s.phase = .copy n) (hag : s.AgreesWith old) :
    ∃ old', copyTail n (s.withStale old) = (copyTail n s).withStale old' ∧ (copyTail n s).AgreesWith old' := by
  have hf := hag.flag n (.inr hp)
  obtain ⟨hrem, hdist⟩ := hag.copy n hp
  have hrem' : (s.withStale old).copyRem = s.copyRem := hrem
  have hlen : (s.withStale old).outLen = s.outLen := rfl
  have htarget : (s.withStale old).targetLen = s.targetLen := rfl
  have hspent : State.AgreesWith { s with copyRem := 0 } { old with copyRem := 0 } :=
    ⟨hag.flag, fun _ _ => ⟨rfl, hdist⟩, hag.out⟩
  unfold copyTail
  rw [hrem', hlen, htarget]
  split
  · exact ⟨{ old with copyRem := 0 }, rfl, hspent.advance hf n⟩
  · exact ⟨{ old with copyRem := s.copyRem - 1 }, rfl, fun _ _ => hf, fun _ _ => ⟨rfl, hdist⟩, hag.out⟩

/-- A copy whose source position has been produced reads the same byte in both, and draws none. -/
theorem execCopy_withStale (hsrc : ∀ n, s.phase = .copy n → (copySource s).toNat < s.outLen.toNat)
    (hag : s.AgreesWith old) (h : execCopy s = .next t) :
    ∃ old', execCopy (s.withStale old) = .next (t.withStale old') ∧ t.AgreesWith old' := by
  obtain ⟨n, hp, hfit, rfl⟩ := execCopy_next.1 h
  obtain ⟨b, hb, hb'⟩ := hag.out _ (hsrc n hp)
  obtain ⟨-, hdist⟩ := hag.copy n hp
  have hsource : copySource (s.withStale old) = copySource s := by
    rw [copySource, copySource, ← hdist]
    rfl
  have hread : (s.withStale old).out.read (copySource s).toNat = some b := hb'
  obtain ⟨old', heq, hag'⟩ := copyTail_withStale (s := s.appended b) hp (hag.appended b)
  rw [State.afterOutRead_of_read hb, State.outByte_of_read hb]
  refine ⟨old', execCopy_next.2 ⟨n, hp, hfit, ?_⟩, hag'⟩
  rw [hsource, State.afterOutRead_of_read hread, State.outByte_of_read hread, ← heq]
  rfl

/-! ### The engine's step -/

theorem exec_withStale {i : Instr} (hi : i ≠ .start)
    (hsrc : ∀ n, s.phase = .copy n → (copySource s).toNat < s.outLen.toNat) (hag : s.AgreesWith old)
    (h : exec i s = .next t) : ∃ old', exec i (s.withStale old) = .next (t.withStale old') ∧ t.AgreesWith old' := by
  cases i with
  | hdr10 n => exact headerStep_withStale hag h
  | hdr11 n => exact headerStep_withStale hag h
  | hdr10x n => exact headerStep_withStale hag h
  | hdr11x n => exact headerStep_withStale hag h
  | flag f =>
    obtain ⟨hp, rfl⟩ := execFlag_next.1 h
    exact ⟨{ old with flag := f }, execFlag_next.2 ⟨hp, rfl⟩, fun _ _ => rfl, nofun, hag.out⟩
  | lit v => exact execLit_withStale hag h
  | ref10 l d => exact tokenStep_withStale hag h
  | ref11s l d => exact tokenStep_withStale hag h
  | ref11m l d => exact tokenStep_withStale hag h
  | ref11l l d => exact tokenStep_withStale hag h
  | copy => exact execCopy_withStale hsrc hag h
  | start => exact absurd rfl hi

theorem runDecoded_withStale {d : Decoded} (hstart : ∀ i rest, d = .ok i rest → i ≠ .start)
    (hsrc : ∀ n, s.phase = .copy n → (copySource s).toNat < s.outLen.toNat) (hag : s.AgreesWith old)
    (h : runDecoded s d = .next t) :
    ∃ old', runDecoded (s.withStale old) d = .next (t.withStale old') ∧ t.AgreesWith old' := by
  cases d with
  | ok i rest => exact exec_withStale (hstart i rest rfl) hsrc hag h
  | truncated => cases h; exact ⟨old, rfl, .of_out hag.out nofun nofun⟩
  | invalidTag tag => cases h; exact ⟨old, rfl, .of_out hag.out nofun nofun⟩
  | noCommand => cases h; exact ⟨old, rfl, hag⟩

/-- The flag byte is looked at in BIT(n) only (30_encoding.md R70). -/
theorem nextContext_withStale (hag : s.AgreesWith old) : nextContext (s.withStale old) = nextContext s := by
  have hphase : (s.withStale old).phase = s.phase := rfl
  unfold nextContext
  rw [hphase]
  cases hp : s.phase with
  | bit n =>
    have hf : (s.withStale old).flag = s.flag := hag.flag n (.inl hp)
    dsimp only
    rw [hf]
    rfl
  | _ => rfl

/-- The source of a copy lies below `out_len` (42_copy_engine.md R144). -/
theorem State.InvButOut.copySource_lt (h : s.InvButOut) {n : Fin 8} (hp : s.phase = .copy n) :
    (copySource s).toNat < s.outLen.toNat := by
  obtain ⟨m, j, hinv⟩ := h
  obtain ⟨hd, -, hle, -⟩ : 1 ≤ s.copyDist ∧ s.copyDist ≤ 4096 ∧ wideDistance s.copyDist ≤ s.outLen ∧ 1 ≤ s.copyRem :=
    hinv.copy_ok n hp
  have hwide := toNat_wideDistance s.copyDist
  rw [copySource]
  bv_omega

theorem engineStep_withStale (hinv : s.InvButOut) (hag : s.AgreesWith old) (hx : engineStep s = .next t) :
    ∃ old', engineStep (s.withStale old) = .next (t.withStale old') ∧ t.AgreesWith old' := by
  have hctx := nextContext_withStale hag
  cases hc : nextContext s with
  | none =>
    obtain rfl : s = t := by simpa [engineStep_of_none hc] using hx
    exact ⟨old, engineStep_of_none (hctx.trans hc), hag⟩
  | some c =>
    rw [engineStep_of_some hc] at hx
    rw [engineStep_of_some (hctx.trans hc)]
    exact runDecoded_withStale (fun _ _ hd => ne_start_of_selected hc hd) (fun _ hp => hinv.copySource_lt hp) hag hx

/-! ### Runs, and what they observe -/

theorem run_withStale {k : Nat} (hinv : s.InvButOut) (hev : s.events = []) (hag : s.AgreesWith old)
    (hrun : run k s = .next t) :
    ∃ old', run k (s.withStale old) = .next (t.withStale old') ∧ t.AgreesWith old' := by
  induction k generalizing s old with
  | zero =>
    obtain rfl : s = t := by simpa using hrun
    exact ⟨old, rfl, hag⟩
  | succ k ih =>
    obtain ⟨u, hstep, hrest⟩ := run_succ_next hrun
    rw [step_engine hev] at hstep
    obtain ⟨old', hstep', hag'⟩ := engineStep_withStale hinv hag hstep
    have hev' : (s.withStale old).events = [] := hev
    rw [run_succ_of_next ((step_engine hev').trans hstep') k]
    exact ih (hinv.engineStep hstep) ((engineStep_move hstep).events_eq.trans hev) hag' hrest

/-- START leaves a difference in the fields of `withStale` only, and in HEADER none of them is looked at. -/
theorem started_withStale {s' : State} (hcfg : s.cfg = s'.cfg) (hev : s.events = s'.events) (bytes : List Byte) :
    s'.started bytes = (s.started bytes).withStale s' := by
  simp only [State.started, State.withStale, hcfg, hev]

theorem started_agreesWith (s old : State) (bytes : List Byte) : (s.started bytes).AgreesWith old :=
  .of_out (Memory.agreeBelow_zero _ _) nofun nofun

/-- What a decode shows is in the registers, and in the bytes produced up to `target_len` (41_main_loop.md R128). -/
theorem observe_withStale (hag : s.AgreesWith old) (hdone : s.DoneAtTarget) :
    observe (s.withStale old) = observe s := by
  have hphase : (s.withStale old).phase = s.phase := rfl
  unfold observe
  rw [hphase]
  cases hp : s.phase with
  | done =>
    have hbytes : outPrefix (s.withStale old).out s.targetLen.toNat = outPrefix s.out s.targetLen.toNat :=
      hag.out.outPrefix_eq (BitVec.le_def.1 (hdone hp))
    exact congrArg (Option.map _) hbytes
  | _ => rfl

end Sys2Proof.Machine

namespace Sys2Proof

open Sys2Proof.Machine

/-- Settles O17: the second decode is the first one on a block with other stale content. -/
theorem observationDependsOnTheInputOnly : Obligations.ObservationDependsOnTheInputOnly := by
  intro s s' bytes k t hev hev' hcfg hwf hrun
  obtain ⟨old, hrun', hag⟩ :=
    run_withStale (State.started_invButOut hwf bytes) hev (started_agreesWith s s' bytes) hrun
  have hstart : (s.started bytes).DoneAtTarget := nofun
  have hdone : t.DoneAtTarget :=
    run_keeps_of_engineMove (fun _ _ h => h.keeps_doneAtTarget) (s := s.started bytes) hev hrun hstart
  rw [started_withStale hcfg (hev.trans hev'.symm)]
  exact ⟨_, hrun', observe_withStale hag hdone, rfl, rfl, rfl⟩

end Sys2Proof
end

section
/-! The copy engine: one COPY step in numbers, the window it reads, and a whole copy in closed form (42_copy_engine.md
R140 to R145). -/

namespace Sys2Proof.Machine

variable {s : State} {n : Fin 8} {b : Byte}

/-! ### One COPY step -/

/-- A distance that reaches no further than the output does not wrap (42_copy_engine.md R144). -/
theorem toNat_copySource (h : s.copyDist.toNat ≤ s.outLen.toNat) :
    (copySource s).toNat = s.outLen.toNat - s.copyDist.toNat := by
  have hwide := toNat_wideDistance s.copyDist
  rw [copySource]
  bv_omega

/-- COPY whose source position holds b appends b, and draws nothing (42_copy_engine.md R140). -/
theorem exec_copy_of_read (hp : s.phase = .copy n) (hcap : s.outLen.toNat < s.cfg.outCapacity)
    (hdist : s.copyDist.toNat ≤ s.outLen.toNat) (hb : s.out.read (s.outLen.toNat - s.copyDist.toNat) = some b) :
    exec .copy s = .next (copyTail n (s.appended b)) := by
  refine execCopy_next.2 ⟨n, hp, hcap, ?_⟩
  rw [toNat_copySource hdist, State.outByte, State.afterOutRead, hb]
  rfl

/-- Once a byte is appended the copy ends if it was the last, or reached the target (42_copy_engine.md R143). -/
theorem copyTail_of_last (hlt : s.outLen.toNat < s.targetLen.toNat)
    (hlast : s.copyRem.toNat = 1 ∨ s.outLen.toNat + 1 = s.targetLen.toNat) :
    copyTail n (s.appended b) =
      { s.appended b with copyRem := 0, phase := phaseOnceHandled n (s.outLen.toNat + 1) s.targetLen.toNat } := by
  have hphase : (s.appended b).phaseAfter n = phaseOnceHandled n (s.outLen.toNat + 1) s.targetLen.toNat := by
    rw [State.phaseAfter_eq, State.appended_outLen, toNat_outLen_succ hlt, State.appended_targetLen]
  obtain ⟨-, heq⟩ | ⟨hrem, htarget, -⟩ := copyTail_cases n (s.appended b)
  · rw [heq, hphase]
  · rw [State.appended_copyRem] at hrem
    rw [State.appended_outLen, State.appended_targetLen] at htarget
    bv_omega

/-- Otherwise it counts down and goes on. -/
theorem copyTail_of_more (hlt : s.outLen.toNat < s.targetLen.toNat) (hone : s.copyRem.toNat ≠ 1)
    (hbelow : s.outLen.toNat + 1 ≠ s.targetLen.toNat) :
    copyTail n (s.appended b) = { s.appended b with copyRem := s.copyRem - 1 } := by
  obtain ⟨hend, -⟩ | ⟨-, -, heq⟩ := copyTail_cases n (s.appended b)
  · rw [State.appended_copyRem, State.appended_outLen, State.appended_targetLen] at hend
    bv_omega
  · exact heq

/-! ### COPY under the invariant -/

/-- R39's clauses of COPY(n), as numbers. -/
theorem State.Inv.copy_bounds (h : s.Inv) (hp : s.phase = .copy n) :
    1 ≤ s.copyDist.toNat ∧ s.copyDist.toNat ≤ 4096 ∧ s.copyDist.toNat ≤ s.outLen.toNat ∧ 1 ≤ s.copyRem.toNat
      ∧ s.outLen.toNat < s.targetLen.toNat := by
  obtain ⟨hd1, hd2, hdle, hrem⟩ := h.copy_ok n hp
  have hlt : s.outLen < s.targetLen := h.outLen_lt (hp ▸ rfl)
  rw [BitVec.le_def, toNat_wideDistance] at hdle
  exact ⟨hd1, hd2, hdle, hrem, hlt⟩

/-- The source of a copy step has been written, and the engine appends its byte (42_copy_engine.md R144). -/
theorem engineStep_copy_appends (h : s.Inv) (hp : s.phase = .copy n) :
    ∃ b, s.out.read (s.outLen.toNat - s.copyDist.toNat) = some b
      ∧ engineStep s = .next (copyTail n (s.appended b)) := by
  have hd : s.phase.decoding = true := by rw [hp]; rfl
  obtain ⟨hd1, -, hdle, -⟩ := h.copy_bounds hp
  obtain ⟨b, hb⟩ := Option.isSome_iff_exists.1
    (h.written (Phase.busy_of_decoding hd) (s.outLen.toNat - s.copyDist.toNat) (by omega))
  have hc : nextContext s = some .copyStep := nextContext_eq_some_iff.2 ⟨n, hp⟩
  exact ⟨b, hb, (engineStep_of_some hc).trans (exec_copy_of_read hp (h.room hd) hdle hb)⟩

/-! ### What a whole copy does to OUT -/

/-- `m'` is `m` with `c` bytes copied to p and on, from the d bytes before p repeated (42_copy_engine.md R141, R142). -/
def Memory.CopiedTo (m m' : Memory) (p d c : Nat) : Prop :=
  (∀ k, k < c → m'.read (p + k) = m.read (p - d + k % d)) ∧ ∀ a, a < p ∨ p + c ≤ a → m'.read a = m.read a

theorem Memory.copiedTo_zero (m : Memory) (p d : Nat) : m.CopiedTo m p d 0 :=
  ⟨fun _ hk => absurd hk (Nat.not_lt_zero _), fun _ _ => rfl⟩

/-- The d bytes before p + 1 are those before p, turned by one: the byte written at p is the one that stood first. -/
theorem Memory.read_write_turned {m : Memory} {p d : Nat} (hd : 1 ≤ d) (hdp : d ≤ p) (hb : m.read (p - d) = some b)
    (k : Nat) : (m.write p b).read (p + 1 - d + k % d) = m.read (p - d + (k + 1) % d) := by
  have hk : k % d < d := Nat.mod_lt k hd
  rw [← Nat.mod_add_mod]
  by_cases hlast : k % d + 1 = d
  · have hpos : p + 1 - d + k % d = p := by omega
    rw [hpos, Memory.read_write_same, hlast, Nat.mod_self, Nat.add_zero, hb]
  · have hpos : p + 1 - d + k % d = p - d + (k % d + 1) := by omega
    rw [hpos, Memory.read_write_other _ _ (by omega), Nat.mod_eq_of_lt (a := k % d + 1) (by omega)]

/-- One byte copied, then c more from one position on. -/
theorem Memory.CopiedTo.cons {m m' : Memory} {p d c : Nat} (hd : 1 ≤ d) (hdp : d ≤ p) (hb : m.read (p - d) = some b)
    (h : (m.write p b).CopiedTo m' (p + 1) d c) : m.CopiedTo m' p d (c + 1) := by
  obtain ⟨hcopied, hrest⟩ := h
  refine ⟨fun k hk => ?_, fun a ha => ?_⟩
  · cases k with
    | zero =>
      rw [Nat.add_zero, hrest p (.inl p.lt_succ_self), Memory.read_write_same, Nat.zero_mod, Nat.add_zero, hb]
    | succ k =>
      rw [← Memory.read_write_turned hd hdp hb, ← hcopied k (Nat.lt_of_succ_lt_succ hk), Nat.add_right_comm,
        Nat.add_assoc]
  · rw [hrest a (by omega), Memory.read_write_other _ _ (by omega)]

/-! ### A whole copy -/

/-- As many steps as there are bytes to copy below the target. -/
theorem run_copy {m : Nat} (h : s.Inv) (hev : s.events = []) (hp : s.phase = .copy n)
    (hm : m + 1 = min s.copyRem.toNat (s.targetLen.toNat - s.outLen.toNat)) :
    ∃ t, run (m + 1) s = .next t ∧ t.outLen.toNat = s.outLen.toNat + (m + 1)
      ∧ s.out.CopiedTo t.out s.outLen.toNat s.copyDist.toNat (m + 1)
      ∧ t = { s with
          out := t.out, outLen := t.outLen, copyRem := 0,
          phase := phaseOnceHandled n (s.outLen.toNat + (m + 1)) s.targetLen.toNat } := by
  induction m generalizing s with
  | zero =>
    obtain ⟨hd1, -, hdle, -, hlt⟩ := h.copy_bounds hp
    obtain ⟨b, hb, hx⟩ := engineStep_copy_appends h hp
    rw [copyTail_of_last hlt (by omega)] at hx
    exact ⟨_, run_succ_of_next ((step_engine hev).trans hx) 0, toNat_outLen_succ hlt,
      (Memory.copiedTo_zero _ _ _).cons hd1 hdle hb, rfl⟩
  | succ m ih =>
    obtain ⟨hd1, -, hdle, -, hlt⟩ := h.copy_bounds hp
    obtain ⟨b, hb, hx⟩ := engineStep_copy_appends h hp
    have hlen := toNat_outLen_succ hlt
    rw [copyTail_of_more hlt (by omega) (by omega)] at hx
    have hrem : (s.copyRem - 1).toNat = s.copyRem.toNat - 1 := by bv_omega
    obtain ⟨t, hrun, htlen, hcopied, heq⟩ := ih (h.engineStep hx) hev hp (by
      simp only [State.appended_outLen, State.appended_targetLen]
      omega)
    simp only [State.appended_out, State.appended_outLen, State.appended_copyDist, State.appended_targetLen, hlen,
      Nat.add_assoc, Nat.add_comm 1] at htlen hcopied heq
    exact ⟨t, (run_succ_of_next ((step_engine hev).trans hx) _).trans hrun, htlen, hcopied.cons hd1 hdle hb, heq⟩

end Sys2Proof.Machine

namespace Sys2Proof

open Sys2Proof.Machine

/-- Settles O40: the appended state, and the two ways a copy step ends. -/
theorem copyStepCompletes : Obligations.CopyStepCompletes := by
  intro s n b hp hlt hcap hrem hdist hb
  obtain ⟨hout, hsame, -⟩ := copyTail_frame n (s.appended b)
  refine ⟨_, exec_copy_of_read hp hcap hdist hb, ?_, fun a ha => ?_, ?_, ?_, fun hlast => ?_,
    fun hone hbelow => ?_⟩
  · rw [hout]
    exact Memory.read_write_same _ _ _
  · rw [hout]
    exact Memory.read_write_other _ _ ha
  · rw [hsame]
    exact toNat_outLen_succ hlt
  · rw [copyTail_eq]
    rfl
  · rw [copyTail_of_last hlt hlast]
    exact ⟨rfl, rfl⟩
  · rw [copyTail_of_more hlt hone hbelow]
    have hdec : (s.copyRem - 1).toNat = s.copyRem.toNat - 1 := by bv_omega
    exact ⟨hdec, hp⟩

/-- Settles O41: the invariant bounds the distance, and every position below `out_len` is written. -/
theorem copyReadsInsideTheWindow : Obligations.CopyReadsInsideTheWindow := by
  intro s n hinv hp
  obtain ⟨hd1, hd2, hdle, -⟩ := hinv.copy_bounds hp
  obtain ⟨b, hb, hx⟩ := engineStep_copy_appends hinv hp
  rw [toNat_copySource hdle]
  refine ⟨by omega, by omega, by omega, b, _, hb, hx, ?_⟩
  rw [(copyTail_frame n _).1]
  exact Memory.read_write_same _ _ _

/-- Settles O42: under the invariant there is a byte to copy, so the copy takes at least one step. -/
theorem copyHasTheClosedForm : Obligations.CopyHasTheClosedForm := by
  rintro s n p d m hinv hev hp rfl rfl hm
  obtain ⟨-, -, -, hrem, hlt⟩ := hinv.copy_bounds hp
  obtain ⟨m, rfl⟩ : ∃ k, m = k + 1 := Nat.exists_eq_succ_of_ne_zero (by omega)
  obtain ⟨t, hrun, hlen, ⟨hcopied, hrest⟩, heq⟩ := run_copy hinv hev hp hm
  exact ⟨t, hrun, hlen, hcopied, hrest, heq⟩

end Sys2Proof
end

section
/-! The back-reference token that starts a copy (41_main_loop.md R124, 43_lzss10_token.md R160). -/

namespace Sys2Proof.Machine

/-- A token of non-zero length that reaches no further than the output (41_main_loop.md R124). -/
theorem tokenStep_loads_copy {s : State} {n : Fin 8} {v : Variant} {len : BitVec 17} {d : BitVec 12}
    (hp : s.phase = .bit n) (hf : flagBit s.flag n = true) (hv : s.variant = v) (hd : d.toNat + 1 ≤ s.outLen.toNat)
    (hlen : len ≠ 0) (w : Nat) :
    tokenStep v len (distanceOf d) w s = .next
      { s with inPos := s.inPos + BitVec.ofNat 64 w, copyRem := len, copyDist := distanceOf d, phase := .copy n } := by
  have hnear : ¬ (s.consume w).outLen < wideDistance (distanceOf d) := by
    simpa [BitVec.lt_def] using hd
  refine tokenStep_next.2 ⟨n, hp, hf, hv, ?_⟩
  rw [backRef, if_neg hnear, if_neg hlen]
  rfl

/-- `L + 3` is at least 3 (30_encoding.md R81). -/
theorem lengthRef10_ne_zero (l : BitVec 4) : lengthRef10 l ≠ 0 := by
  have hlen := toNat_lengthRef10 l
  bv_omega

end Sys2Proof.Machine

namespace Sys2Proof

open Sys2Proof.Machine

/-- Settles O37: an LZSS10 length is never 0, so a distance in range always starts the copy. -/
theorem lzss10TokenCompletes : Obligations.Lzss10TokenCompletes := by
  intro s n l d hp hf hv hd
  exact ⟨_, tokenStep_loads_copy hp hf hv hd (lengthRef10_ne_zero l) 2, toNat_lengthRef10 l, toNat_distanceOf d, rfl⟩

end Sys2Proof
end

section
/-! The LZSS11 tokens that start a copy (44_lzss11_tokens.md R181 to R184, 41_main_loop.md R124). -/

namespace Sys2Proof.Machine

/-- The token step with its length given as a number, whatever its tier (41_main_loop.md R124). -/
theorem tokenStep_loads_length {s : State} {n : Fin 8} {v : Variant} {len : BitVec 17} {k : Nat} {d : BitVec 12}
    (hp : s.phase = .bit n) (hf : flagBit s.flag n = true) (hv : s.variant = v) (hd : d.toNat + 1 ≤ s.outLen.toNat)
    (hlen : len.toNat = k) (hk : k ≠ 0) (w : Nat) :
    ∃ t, tokenStep v len (distanceOf d) w s = .next t ∧ t.copyRem.toNat = k ∧ t.copyDist.toNat = d.toNat + 1
      ∧ t = { s with
          inPos := s.inPos + BitVec.ofNat 64 w, copyRem := t.copyRem, copyDist := t.copyDist, phase := .copy n } := by
  have hne : len ≠ 0 := by
    rintro rfl
    exact hk hlen.symm
  exact ⟨_, tokenStep_loads_copy hp hf hv hd hne w, hlen, toNat_distanceOf d, rfl⟩

end Sys2Proof.Machine

namespace Sys2Proof

open Sys2Proof.Machine

/-- Settles O38: each tier is a token step, and biases in their bounds keep its length from wrapping to 0. -/
theorem lzss11TokensComplete : Obligations.Lzss11TokensComplete := by
  intro s n d hp hf hv hwf hd
  refine ⟨fun l => ?_, fun l hl => ?_, fun l hl => ?_⟩
  · exact tokenStep_loads_length hp hf hv hd (toNat_lengthRef11S l) (Nat.succ_ne_zero _) 2
  · exact tokenStep_loads_length hp hf hv hd (toNat_lengthRef11M hwf l) hl 3
  · exact tokenStep_loads_length hp hf hv hd (toNat_lengthRef11L hwf l) hl 4

end Sys2Proof
end

section
/-! The three faults of an engine step: every one is the reading of some bytes and a raise, and each by its own cause
(60_exceptions.md R200 to R205). -/

namespace Sys2Proof.Machine

variable {s t : State}

/-! ### What a faulting step does -/

/-- A step from s to t that raises: t is s with some bytes read and the fault recorded. A copy step reads no byte and never
raises (60_exceptions.md R205), and InvalidHeader is the header step's (R201). -/
def State.RaisesTo (s t : State) : Prop :=
  ∃ (k : Nat) (e : ErrKind) (info : BitVec 32), t = (s.consume k).raise e info ∧ e ≠ .none
    ∧ (∀ n, s.phase ≠ .copy n) ∧ (e = .invalidHeader → s.phase = .header)

/-- A step that does not raise: `err` stays, and ERROR is not entered. -/
def State.NoFault (s t : State) : Prop := t.err = s.err ∧ (s.phase ≠ .error → t.phase ≠ .error)

theorem State.phaseAfter_ne_error (s : State) (n : Fin 8) : s.phaseAfter n ≠ .error := by
  obtain ⟨hp, -⟩ | ⟨hp | ⟨m, hp⟩, -⟩ := s.phaseAfter_cases n <;> rw [hp] <;> nofun

/-- A copy step reads no byte, so that the input cannot end inside it (42_copy_engine.md R140). -/
theorem phase_ne_copy_of_truncated {c : Context} (hc : nextContext s = some c)
    (hd : decode c s.remaining = .truncated) (n : Fin 8) : s.phase ≠ .copy n := by
  intro hp
  have hcopy : nextContext s = some .copyStep := nextContext_eq_some_iff.2 ⟨n, hp⟩
  obtain rfl : c = .copyStep := Option.some.inj (hc.symm.trans hcopy)
  cases hd

theorem backRef_raises_or_not {n : Fin 8} (hp : s.phase = .bit n) (len : BitVec 17) (dist : BitVec 13) (w : Nat) :
    s.RaisesTo (backRef n len dist (s.consume w)) ∨ s.NoFault (backRef n len dist (s.consume w)) := by
  obtain ⟨-, heq⟩ | ⟨-, -, heq⟩ | ⟨-, -, heq⟩ := backRef_cases n len dist (s.consume w) <;> rw [heq]
  · exact .inl ⟨w, _, _, rfl, nofun, by simp [hp], nofun⟩
  · exact .inr ⟨rfl, fun _ => State.phaseAfter_ne_error _ n⟩
  · exact .inr ⟨rfl, fun _ => nofun⟩

theorem copyTail_noFault {n : Fin 8} (s : State) : s.NoFault (copyTail n s) := by
  obtain ⟨-, heq⟩ | ⟨-, -, heq⟩ := copyTail_cases n s <;> rw [heq]
  · exact ⟨rfl, fun _ => State.phaseAfter_ne_error _ n⟩
  · exact ⟨rfl, id⟩

/-- Every engine step raises, or records no fault and does not enter ERROR. -/
theorem EngineMove.raises_or_not (h : EngineMove s t) : s.RaisesTo t ∨ s.NoFault t := by
  cases h with
  | stay _ => exact .inr ⟨rfl, id⟩
  | endOfInput c hc hd => exact .inl ⟨_, _, _, rfl, nofun, phase_ne_copy_of_truncated hc hd, nofun⟩
  | badTag tag rest hp _ _ _ => exact .inl ⟨_, _, _, rfl, nofun, by simp [hp], fun _ => hp⟩
  | header v e len w _ _ =>
    refine .inr ⟨rfl, fun _ => ?_⟩
    rw [State.headerAccepted_phase]
    split <;> nofun
  | flag f _ => exact .inr ⟨rfl, fun _ => nofun⟩
  | lit v n _ _ _ => exact .inr ⟨rfl, fun _ => State.phaseAfter_ne_error _ n⟩
  | token len dist w n hp _ => exact backRef_raises_or_not hp len dist w
  | copy n _ _ =>
    refine .inr ?_
    rw [State.afterOutRead_eq]
    exact copyTail_noFault _

/-- An engine step that enters ERROR raises. -/
theorem engineStep_raises (h : engineStep s = .next t) (hs : s.phase ≠ .error) (ht : t.phase = .error) :
    s.RaisesTo t :=
  (engineStep_move h).raises_or_not.resolve_right fun hno => hno.2 hs ht

/-! ### The invalid tag -/

/-- The tag is tested as soon as it is read (40_header.md R105). -/
theorem engineStep_of_invalidTag {tag : Byte} {rest : List Byte} (hp : s.phase = .header)
    (hr : s.remaining = tag :: rest) (h10 : tag ≠ tagLzss10) (h11 : tag ≠ tagLzss11) :
    engineStep s = .next ((s.consume 1).raise .invalidHeader (tag.zeroExtend 32)) := by
  have hc : nextContext s = some .header := nextContext_eq_some_iff.2 hp
  rw [engineStep_of_some hc, hr, decode, decodeHeader, if_neg h10, if_neg h11, runDecoded]

/-! ### Bytes too few for their element (30_encoding.md R85) -/

theorem decodeLen32_of_short (v : Variant) {bs : List Byte} (h : bs.length < 4) : decodeLen32 v bs = .truncated :=
  match bs, h with
  | [], _ | [_], _ | [_, _], _ | [_, _, _], _ => rfl

theorem decodeLength_of_short (v : Variant) {bs : List Byte} (h : bs.length < 3) : decodeLength v bs = .truncated :=
  match bs, h with
  | [], _ | [_], _ | [_, _], _ => rfl

theorem decodeToken10_of_short {bs : List Byte} (h : bs.length < 2) : decodeToken10 bs = .truncated :=
  match bs, h with
  | [], _ | [_], _ => rfl

theorem decodeTierM_of_short (b0 : Byte) {bs : List Byte} (h : bs.length < 2) : decodeTierM b0 bs = .truncated :=
  match bs, h with
  | [], _ | [_], _ => rfl

theorem decodeTierL_of_short (b0 : Byte) {bs : List Byte} (h : bs.length < 3) : decodeTierL b0 bs = .truncated :=
  match bs, h with
  | [], _ | [_], _ | [_, _], _ => rfl

theorem decodeTierS_of_short (b0 : Byte) {bs : List Byte} (h : bs.length < 1) : decodeTierS b0 bs = .truncated :=
  match bs, h with
  | [], _ => rfl

/-- Either of the two tags is followed by the length bytes. -/
theorem decode_header_of_tag {tag : Byte} (h : tag = 0x10 ∨ tag = 0x11) (bs : List Byte) :
    ∃ v, decode .header (tag :: bs) = decodeLength v bs := by
  obtain rfl | rfl := h
  · exact ⟨.lzss10, rfl⟩
  · exact ⟨.lzss11, rfl⟩

theorem decode_header_of_short {tag : Byte} (h : tag = 0x10 ∨ tag = 0x11) {bs : List Byte} (hbs : bs.length < 3) :
    decode .header (tag :: bs) = .truncated := by
  obtain ⟨v, hv⟩ := decode_header_of_tag h bs
  rw [hv, decodeLength_of_short v hbs]

/-- The header of a 24-bit length 0, with fewer than four bytes after it (30_encoding.md R73). -/
theorem decode_header_of_short_extended {tag : Byte} (h : tag = 0x10 ∨ tag = 0x11) {bs : List Byte}
    (hbs : bs.length < 4) : decode .header (tag :: 0 :: 0 :: 0 :: bs) = .truncated := by
  obtain ⟨v, hv⟩ := decode_header_of_tag h (0 :: 0 :: 0 :: bs)
  have hzero : le24 0 0 0 = 0 := rfl
  rw [hv, decodeLength, if_pos hzero, decodeLen32_of_short v hbs]

/-! ### The end of the input -/

theorem engineStep_of_truncated {c : Context} (hc : nextContext s = some c) (hd : decode c s.remaining = .truncated) :
    engineStep s = .next ((s.consume s.remaining.length).raise .unexpectedEof 0) := by
  rw [engineStep_of_some hc, hd, runDecoded]

theorem decode_header_of_endsInside (hp : s.phase = .header) (h : endsInsideElement s = true) :
    decode .header s.remaining = .truncated := by
  simp only [endsInsideElement, hp] at h
  generalize s.remaining = bs at h ⊢
  split at h
  · rfl
  · exact decode_header_of_short (of_decide_eq_true h) (by simp)
  · exact decode_header_of_short (of_decide_eq_true h) (by simp)
  · exact decode_header_of_short (of_decide_eq_true h) (by simp)
  · simp only [Bool.and_eq_true, decide_eq_true_eq] at h
    obtain ⟨⟨htag, rfl, rfl, rfl⟩, hrest⟩ := h
    exact decode_header_of_short_extended htag hrest

theorem decode_token11_of_endsInside {n : Fin 8} (hp : s.phase = .bit n) (hf : flagBit s.flag n = true)
    (hv : s.variant = .lzss11) (h : endsInsideElement s = true) : decode .token11 s.remaining = .truncated := by
  have hbit : s.flag.getLsbD (7 - n.val) = true := hf
  cases hr : s.remaining with
  | nil => rfl
  | cons b0 bs =>
    simp only [endsInsideElement, hp, hbit, hv, hr, Bool.true_eq_false, if_false] at h
    split at h
    case isTrue hM =>
      rw [decode_token11_tierM (highNibble_eq_iff.2 hM), decodeTierM_of_short b0 (of_decide_eq_true h)]
    case isFalse hM =>
      split at h
      case isTrue hL =>
        rw [decode_token11_tierL (highNibble_eq_iff.2 hL), decodeTierL_of_short b0 (of_decide_eq_true h)]
      case isFalse hL =>
        have hS : 2 ≤ (highNibble b0).toNat := by
          rw [toNat_highNibble]
          omega
        rw [decode_token11_tierS hS, decodeTierS_of_short b0 (of_decide_eq_true h)]

/-- Where the input ends inside the element, told by widths and by the order of reads, the decoder of the selected context
misses a byte. -/
theorem truncated_of_endsInsideElement (h : endsInsideElement s = true) :
    ∃ c, nextContext s = some c ∧ decode c s.remaining = .truncated := by
  cases hp : s.phase with
  | idle => simp [endsInsideElement, hp] at h
  | header => exact ⟨.header, nextContext_eq_some_iff.2 hp, decode_header_of_endsInside hp h⟩
  | needFlag =>
    have hempty : s.remaining = [] := by simpa [endsInsideElement, hp] using h
    exact ⟨.flagByte, nextContext_eq_some_iff.2 hp, by rw [hempty]; rfl⟩
  | bit n =>
    cases hf : flagBit s.flag n with
    | false =>
      have hbit : s.flag.getLsbD (7 - n.val) = false := hf
      have hempty : s.remaining = [] := by simpa [endsInsideElement, hp, hbit] using h
      exact ⟨.literal, nextContext_eq_some_iff.2 ⟨n, hp, hf⟩, by rw [hempty]; rfl⟩
    | true =>
      cases hv : s.variant with
      | lzss10 =>
        have hbit : s.flag.getLsbD (7 - n.val) = true := hf
        have hshort : s.remaining.length < 2 := by simpa [endsInsideElement, hp, hbit, hv] using h
        exact ⟨.token10, nextContext_eq_some_iff.2 ⟨n, hp, hf, hv⟩, decodeToken10_of_short hshort⟩
      | lzss11 =>
        exact ⟨.token11, nextContext_eq_some_iff.2 ⟨n, hp, hf, hv⟩, decode_token11_of_endsInside hp hf hv h⟩
  | copy n => simp [endsInsideElement, hp] at h
  | done => simp [endsInsideElement, hp] at h
  | error => simp [endsInsideElement, hp] at h

/-! ### The distance beyond the output -/

/-- A token whose distance reaches before the start of the output (41_main_loop.md R124). -/
theorem tokenStep_far {n : Fin 8} {v : Variant} {d : BitVec 12} (hp : s.phase = .bit n)
    (hf : flagBit s.flag n = true) (hv : s.variant = v) (hd : s.outLen.toNat < d.toNat + 1) (len : BitVec 17) (w : Nat) :
    tokenStep v len (distanceOf d) w s = .next
      { s with
        inPos := s.inPos + BitVec.ofNat 64 w, err := .invalidBackReference, errInfo := BitVec.ofNat 32 (d.toNat + 1),
        phase := .error } := by
  have hfar : (s.consume w).outLen < wideDistance (distanceOf d) := by
    simpa [BitVec.lt_def] using hd
  have hinfo : wideDistance (distanceOf d) = BitVec.ofNat 32 (d.toNat + 1) :=
    BitVec.eq_of_toNat_eq (by simp; omega)
  refine tokenStep_next.2 ⟨n, hp, hf, hv, ?_⟩
  rw [backRef, if_pos hfar, hinfo]
  rfl

end Sys2Proof.Machine

namespace Sys2Proof

open Sys2Proof.Machine

/-- Settles O28: the raise itself, then every step that ends in one. -/
theorem faultEntryWritesThreeRegisters : Obligations.FaultEntryWritesThreeRegisters := by
  refine ⟨fun s e info => ⟨rfl, rfl, engineStep_of_none (nextContext_of_ended (.inr rfl))⟩, ⟨rfl, rfl, rfl⟩, ?_⟩
  intro s t h hs ht
  obtain ⟨k, e, info, heq, he, -, -⟩ := engineStep_raises h hs ht
  exact ⟨k, e, info, he, heq⟩

/-- Settles O29: the tag is rejected before the bytes after it are looked at, and no other element raises InvalidHeader. -/
theorem invalidTagRaisesInvalidHeader : Obligations.InvalidTagRaisesInvalidHeader := by
  refine ⟨fun s tag rest hp hr h10 h11 => ?_, fun s t h hs ht => ?_⟩
  · have hinfo : (tag.zeroExtend 32).toNat = tag.toNat := by
      simp
      omega
    exact ⟨_, engineStep_of_invalidTag hp hr h10 h11, hinfo, rfl⟩
  · obtain ⟨k, e, info, rfl, -, -, hheader⟩ | ⟨herr, -⟩ := (engineStep_move h).raises_or_not
    · exact hheader ht
    · exact absurd (herr.symm.trans ht) hs

/-- Settles O30: the step reads what is left, which ends with the input. -/
theorem inputEndRaisesUnexpectedEof : Obligations.InputEndRaisesUnexpectedEof := by
  intro s bytes hin hpos hlen hend
  obtain ⟨c, hc, hd⟩ := truncated_of_endsInsideElement hend
  refine ⟨_, engineStep_of_truncated hc hd, ?_, rfl⟩
  rw [State.raise_inPos, State.consume_inPos, length_remaining hin, BitVec.toNat_add, BitVec.toNat_ofNat]
  omega

/-- Settles O31: each tier is a token step of its own width. -/
theorem farDistanceRaisesInvalidBackReference : Obligations.FarDistanceRaisesInvalidBackReference := by
  intro s n d hp hf hd
  exact ⟨fun l hv => tokenStep_far hp hf hv hd (lengthRef10 l) 2, fun l hv => tokenStep_far hp hf hv hd (lengthRef11S l) 2,
    fun l hv => tokenStep_far hp hf hv hd (lengthRef11M s.cfg l) 3,
    fun l hv => tokenStep_far hp hf hv hd (lengthRef11L s.cfg l) 4⟩

/-- Settles O32: a raise after some bytes writes nothing else, and no copy step raises. -/
theorem faultsArePrecise : Obligations.FaultsArePrecise := by
  intro s t h hs ht
  obtain ⟨k, e, info, rfl, -, hcopy, -⟩ := engineStep_raises h hs ht
  exact ⟨hcopy, rfl⟩

end Sys2Proof
end

section
/-! The reset event, and what the host's accesses do in and outside BUSY (70_reset_and_hazards.md R230, R232, R235). -/

namespace Sys2Proof.Machine

/-! ### Reset (R230) -/

theorem statusWord_reset : statusWord State.reset = 0 := by decide

theorem readReg_reset (r : Reg) : readReg State.reset r = 0 := by
  cases r with
  | status => exact statusWord_reset
  | inPosLo => exact BitVec.extractLsb'_zero
  | inPosHi => exact BitVec.extractLsb'_zero
  | _ => rfl

variable {s : State} {rest : List HostEvent}

/-- No register shows what reset keeps of the state before it. -/
theorem readReg_afterReset (s : State) (r : Reg) : readReg s.afterReset r = 0 := by
  have hview : readReg s.afterReset r = readReg State.reset r := by cases r <;> rfl
  exact hview.trans (readReg_reset r)

/-- The event is taken from the list, whatever the engine was doing. -/
theorem step_reset (hev : s.events = .reset :: rest) : step s = .next { s with events := rest }.afterReset :=
  step_event hev

/-- Reset leaves DONE, so no byte of an earlier decode can be read. -/
theorem not_outReadable_afterReset (s : State) (pos : BitVec 32) : ¬ outReadable s.afterReset pos = true := by
  intro hr
  obtain ⟨hdone, -, -⟩ := outReadable_iff.1 hr
  cases hdone

/-! ### The host's writes of OUT and of the port (R235) -/

theorem hostOutWrite_of_busy (hbusy : s.phase.busy = true) (pos : BitVec 32) :
    hostOutWrite s pos = .refused .hostWroteOutWhileBusy :=
  if_pos hbusy

theorem hostPresent_of_busy {bytes : List Byte} (hbusy : s.phase.busy = true) (hne : s.input ≠ some bytes) :
    hostPresent s bytes = .refused .hostChangedInputWhileBusy :=
  if_pos ⟨hbusy, hne⟩

/-- Outside BUSY the port takes any stream (R232). -/
theorem hostPresent_of_not_busy (hidle : s.phase.busy = false) (bytes : List Byte) :
    hostPresent s bytes = .next { s with port := bytes } := by
  rw [hostPresent, if_neg]
  rintro ⟨hbusy, -⟩
  exact Bool.false_ne_true (hidle.symm.trans hbusy)

end Sys2Proof.Machine

namespace Sys2Proof

open Sys2Proof.Machine

/-- Settles O13: the fields are those of `State.reset`, and a read of OUT finds no DONE. -/
theorem resetEventGivesTheResetValues : Obligations.ResetEventGivesTheResetValues := by
  intro s rest hev
  refine ⟨_, step_reset hev, rfl, rfl, rfl, rfl, rfl, rfl, rfl, rfl, rfl, rfl, readReg_afterReset _, rfl, rfl, ?_⟩
  intro pos hcap
  exact hostOutRead_of_not_readable hcap (not_outReadable_afterReset _ pos)

/-- Settles O23: both accesses test for BUSY before anything else. -/
theorem hostInterferenceWhileBusyIsRefused : Obligations.HostInterferenceWhileBusyIsRefused := by
  intro s rest hbusy
  refine ⟨fun pos b hev => ?_, fun bytes hev hne => ?_⟩
  · exact (step_event hev).trans (hostOutWrite_of_busy (s := { s with events := rest }) hbusy pos)
  · exact (step_event hev).trans (hostPresent_of_busy (s := { s with events := rest }) hbusy hne)

/-- Settles O10: the head of the event list is taken, and outside BUSY a stream at the port meets no refusal. -/
theorem eventsAreTakenInOrder : Obligations.EventsAreTakenInOrder := by
  intro s rest
  refine ⟨fun hev => step_event hev, fun bytes hev hidle => ?_, step_engine⟩
  exact (step_event hev).trans (hostPresent_of_not_busy (s := { s with events := rest }) hidle bytes)

/-- Settles O14: each field as `State.reset` gives it, and the registers as views of them. -/
theorem resetStateReadsZero : Obligations.ResetStateReadsZero :=
  ⟨rfl, rfl, statusWord_reset, rfl, rfl, rfl, rfl, rfl, rfl, rfl, rfl, readReg_reset⟩

end Sys2Proof
end
